-- ==== Sys2Proof/Word.lean ====
section
/-! DEFINITION. The two word types of the block: the byte of 00_scope.md R9 and the operation word of 30_encoding.md R70. -/

namespace Sys2Proof

/-- "A *byte* is an 8-bit unsigned value" (R9); bit 7 is the most significant. -/
abbrev Byte := BitVec 8

/-- "Every step of the block is one 12-bit operation word" (R70). -/
abbrev OpWord := BitVec 12

end Sys2Proof
end

