-- ==== Sys2Proof/Config.lean ====
section
/-! DEFINITION. The OPEN parameters of the block (00_scope.md R7): fixed when an instance is built, arguments of the model,
written by no operation (10_state.md R23). The configurations T, T16 and T257 are those of 95_test_vectors.md section 0. -/

namespace Sys2Proof

/-- The parameters R7 marks OPEN (92_eei_decisions.md D5, D13, D16, D17, D20). -/
structure Config where
  /-- `WIDTH`, the display width in pixels. -/
  width       : Nat
  /-- `HEIGHT`, the display height in rows. -/
  height      : Nat
  /-- `RX_BUF_CAP`, the receive buffer's capacity in bytes. -/
  rxBufCap    : Nat
  /-- `RECORD_BYTES`, the bytes of one encoder input record. -/
  recordBytes : Nat
  /-- `RLE_V0`, the implicit initial logical value of a run stream. -/
  rleV0       : Byte
  /-- `RLE_V1`, the other logical value. -/
  rleV1       : Byte
  deriving DecidableEq, Repr

/-- `WB = WIDTH / 8`, the bytes of a packed row (R7, derived). -/
def Config.wb (c : Config) : Nat := c.width / 8

/-- The ranges R7 gives the parameters; an instance's parameters "must satisfy their stated ranges" (R254). -/
abbrev Config.Valid (c : Config) : Prop :=
  c.width % 8 = 0 ∧ 8 ≤ c.width ∧ c.width ≤ 2024 ∧
  1 ≤ c.height ∧ c.height ≤ 256 ∧
  4 + c.wb ≤ c.rxBufCap ∧ c.rxBufCap ≤ 257 ∧
  1 ≤ c.recordBytes ∧ c.rleV1 ≠ c.rleV0

/-- Configuration T, the test configuration R7 names. -/
def Config.test : Config :=
  { width := 8, height := 8, rxBufCap := 8, recordBytes := 3, rleV0 := 0x00#8, rleV1 := 0xFF#8 }

/-- Configuration T16: T with `WIDTH = 16`. -/
def Config.test16 : Config := { Config.test with width := 16 }

/-- Configuration T257: T with `RX_BUF_CAP = 257`. -/
def Config.test257 : Config := { Config.test with rxBufCap := 257 }

end Sys2Proof
end

