-- ==== Sys2Proof/Machine/State.lean ====
section
/-! DEFINITION. The state of the block (spec/10_state.md), the outputs of a step (R36 to R39), the reasons a step can stop,
and the reset state (70_reset_and_hazards.md R250 to R252). Plain data throughout. -/

namespace Sys2Proof.Machine

/-- The five values of `rx_state` (R25). "The encodings 5, 6 and 7 are never reached": the type has no such values. -/
inductive RxState
  | idle
  | lengthNext
  | dataNext
  | checksumNext
  | etxNext
  deriving DecidableEq, Repr

/-- The rejection causes (R37, 60_exceptions.md R210). -/
inductive Cause
  | badStart
  | zeroLength
  | oversize
  | badChecksum
  | badEtx
  deriving DecidableEq, Repr

/-- Why a well-formed frame is not dispatched (R37, 41_receiver.md R150). -/
inductive Why
  | unknownCommand
  | rowShort
  | rowOutOfRange
  deriving DecidableEq, Repr

/-- The tagged payload of an accepted frame (R37). -/
inductive Payload
  | row (index : Byte) (bits : List Byte)
  | refresh
  | unrecognized (cmd len : Byte) (why : Why)
  deriving DecidableEq, Repr

/-- The result value of an `RX_FEED` step (R37). -/
inductive Result
  | pending
  | accepted (p : Payload)
  | rejected (c : Cause)
  deriving DecidableEq, Repr

/-- A call on the display collaborator (R38, 60_exceptions.md R240); `level` true is `1`, lit. -/
inductive DisplayCall
  | setPixel (x y : Nat) (level : Bool)
  | flush
  deriving DecidableEq, Repr

/-- One output of a step: a reply byte (R36), a result (R37), a display call (R38), an encoder count byte (R39), a decoder run
descriptor `Run(value, n)` or `End` (R39). -/
inductive OutEvent
  | reply (b : Byte)
  | result (r : Result)
  | dispatch (c : DisplayCall)
  | count (c : Byte)
  | run (value : Byte) (n : Nat)
  | streamEnd
  deriving DecidableEq, Repr

/-- The receive buffer (R26, 20_memory.md R50): (index, byte) pairs at strictly rising indices. An index that is not listed holds
*no value*, so no entry can equal what an unlisted index reads as. -/
abbrev Memory := List Host.Cell

/-- The canonical form of `Memory`: strictly rising indices. -/
abbrev Memory.wf (m : Memory) : Prop := m.Pairwise (fun a b => a.1 < b.1)

/-- Everything the spec gives the block, and three fields of the model's own: `cfg`, the parameters (R7) as an argument of the
model (log 4, DESIGN CHOICE); `pending`, the operation words presented and not yet taken (log 1, DESIGN CHOICE); `out`, the outputs
of the latest step, in the order the rule writes them (log 3, DESIGN CHOICE). -/
structure State where
  /-- The parameters of this instance (R7). -/
  cfg       : Config
  /-- `rx_state` (R25). -/
  rxState   : RxState
  /-- `rx_buf` (R26). -/
  rxBuf     : Memory
  /-- `rx_count` (R27), a natural number with no wrap-around (R9). -/
  rxCount   : Nat
  /-- `rx_acc` (R28). -/
  rxAcc     : Byte
  /-- `ck_acc` (R31), also the checksum unit's output after every step. -/
  ckAcc     : Byte
  /-- `enc_value` (R32). -/
  encValue  : Byte
  /-- `enc_count` (R33). -/
  encCount  : Byte
  /-- `enc_pos` (R34). -/
  encPos    : Nat
  /-- `dec_parity` (R35): false is `0` (`RLE_V0` next), true is `1` (`RLE_V1` next). -/
  decParity : Bool
  /-- Operation words presented from outside, oldest first (R12, R59). -/
  pending   : List OpWord
  /-- The outputs of the latest step (R36 to R39). -/
  out       : List OutEvent
  deriving DecidableEq, Repr

/-- Why the machine stops with a fault. No run from reset reaches one (R53, R122). -/
inductive Fault
  /-- A read of a buffer entry that holds no value: raised by the buffer read (20_memory.md R53, 92_eei_decisions.md D30). Safe. -/
  | unwrittenRead (index : Nat)
  /-- An access at an index `>= RX_BUF_CAP`, which names no entry: raised by the buffer read and write (R50, R52; log 9). Safe. -/
  | outsideBuffer (index : Nat)
  deriving DecidableEq, Repr

/-- Why a step has no meaning. -/
inductive Refusal
  /-- An instruction whose meaning is not written yet: raised by an arm of exec. Safe. -/
  | notModelled (mnemonic : String)
  /-- A word with `op` in `0x7 .. 0xF`: "a model **refuses** them" (30_encoding.md R72, D22). Raised by the two RESERVED meanings. Safe. -/
  | reservedOperation (op : BitVec 4) (d : Byte)
  /-- exec was asked for a case whose guard does not hold, so that R73 does not select it (log 5). Raised by the meanings. Safe. -/
  | caseNotSelected
  /-- No case's guard holds for the word, in a state that no run reaches (R73, log 10). Raised by step. Safe. -/
  | noCaseSelected
  deriving DecidableEq, Repr

/-- The reset state of the instance with parameters `c`: every register at its value in R252, nothing presented, no output. -/
def State.resetWith (c : Config) : State :=
  { cfg := c
    rxState := .idle, rxBuf := [], rxCount := 0, rxAcc := 0x00#8
    ckAcc := 0x00#8
    encValue := c.rleV0, encCount := 0#8, encPos := 0
    decParity := false
    pending := [], out := [] }

/-- The machine right after reset, as an instance with the test configuration T (log 4, DESIGN CHOICE). -/
def State.reset : State := State.resetWith Config.test

end Sys2Proof.Machine
end

