-- ==== Sys2Proof/Machine/Ops.lean ====
section
/-! DEFINITION. The shared operations: buffer access (20_memory.md), the XOR fold (40_checksum.md R100), register updates, frame
reset (41_receiver.md R121), taking a rejection (60_exceptions.md R210 to R212), and acknowledging a frame (R138). -/

namespace Sys2Proof.Machine

/-- What one instruction answers. -/
abbrev Outcome := Host.Outcome State Fault Refusal

/-! ### The fixed wire literals (R7) -/

/-- `STX`, the start marker. -/
abbrev stx : Byte := 0x02#8
/-- `ETX`, the end marker. -/
abbrev etx : Byte := 0x03#8
/-- `ACK`, the accept reply. -/
abbrev ack : Byte := 0x06#8
/-- `NAK`, the reject reply. -/
abbrev nak : Byte := 0x15#8
/-- `CMD_ROW`. -/
abbrev cmdRow : Byte := 0x00#8
/-- `CMD_REFRESH`. -/
abbrev cmdRefresh : Byte := 0x01#8
/-- `RLE_CAP`, the run cap and end-of-stream sentinel. -/
abbrev rleCap : Byte := 0xFF#8
/-- `RLE_MAX_RUN`, the largest run count emitted. -/
abbrev rleMaxRun : Byte := 0xFE#8

/-! ### The receive buffer -/

/-- The value of entry `a`, or none where it holds no value (R26). -/
def Memory.read : Memory → Nat → Option Byte
  | [], _ => none
  | (k, v) :: m, a => if k = a then some v else Memory.read m a

/-- Entry `a` receives the byte `b`; the list stays in canonical form. -/
def Memory.write : Memory → Nat → Byte → Memory
  | [], a, b => [(a, b)]
  | (k, v) :: m, a, b =>
    if a < k then (a, b) :: (k, v) :: m
    else if a = k then (a, b) :: m
    else (k, v) :: Memory.write m a b

/-- The buffer that holds the bytes `bs` at indices `i ..` and nothing else. -/
def Memory.ofBytes (i : Nat) : List Byte → Memory
  | [] => []
  | b :: bs => (i, b) :: Memory.ofBytes (i + 1) bs

/-- `MemRead(i, 1)` (R11): a read of an entry that holds no value is a fault (R53, D30). -/
def State.memRead (s : State) (i : Nat) : Except Fault Byte :=
  if i < s.cfg.rxBufCap then
    match s.rxBuf.read i with
    | some b => .ok b
    | none => .error (.unwrittenRead i)
  else .error (.outsideBuffer i)

/-- `[MemRead(i + j, 1) for j in 0 .. n - 1]`, as R150 reads the row's bytes. -/
def State.memReads (s : State) (i : Nat) : Nat → Except Fault (List Byte)
  | 0 => .ok []
  | n + 1 =>
    match s.memRead i with
    | .error f => .error f
    | .ok b =>
      match s.memReads (i + 1) n with
      | .error f => .error f
      | .ok bs => .ok (b :: bs)

/-- Go on with the byte that was read, or stop with the fault of the read. -/
def onRead (r : Except Fault Byte) (k : Byte → Outcome) : Outcome :=
  match r with
  | .ok b => k b
  | .error f => .fault f

/-! ### Register updates, unit by unit (R24) -/

/-- The outputs of the step, replacing those of the step before (R12, R36 to R39). -/
def State.emit (s : State) (es : List OutEvent) : State := { s with out := es }

/-- The operation words still to be taken. -/
def State.setPending (s : State) (ws : List OpWord) : State := { s with pending := ws }

/-- The receiver's registers but its buffer. -/
def State.setReceiver (s : State) (st : RxState) (count : Nat) (acc : Byte) : State :=
  { s with rxState := st, rxCount := count, rxAcc := acc }

/-- The receive buffer. -/
def State.setBuf (s : State) (m : Memory) : State := { s with rxBuf := m }

/-- The checksum unit's accumulator. -/
def State.setCk (s : State) (b : Byte) : State := { s with ckAcc := b }

/-- The encoder's registers. -/
def State.setEnc (s : State) (value count : Byte) (pos : Nat) : State :=
  { s with encValue := value, encCount := count, encPos := pos }

/-- The decoder's register. -/
def State.setDec (s : State) (parity : Bool) : State := { s with decParity := parity }

/-- `frame_reset()` (41_receiver.md R121): IDLE, count 0, accumulator 0, every entry no value. -/
def State.frameReset (s : State) : State := (s.setReceiver .idle 0 0x00#8).setBuf []

/-! ### Checksum -/

/-- `fold_xor` (R100): the first byte, XOR-folded with every later byte in order; `fold_xor([]) = 0x00` (D9). -/
def foldXor : List Byte → Byte
  | [] => 0x00#8
  | b :: bs => bs.foldl (· ^^^ ·) b

/-! ### The receiver's shared endings -/

/-- `MemWrite(i, 1, b)`, the new receiver registers, result `Pending`: the shape of R125, R128, R132 and R133. -/
def State.storeByte (s : State) (i : Nat) (b : Byte) (st : RxState) (count : Nat) (acc : Byte) : Outcome :=
  if i < s.cfg.rxBufCap then
    .next (((s.setBuf (s.rxBuf.write i b)).setReceiver st count acc).emit [.result .pending])
  else .fault (.outsideBuffer i)

/-- The outputs of a rejecting step (R210, R212): the NAK reply, then the cause. No dispatch. -/
def State.takeRejection (s : State) (c : Cause) : State :=
  s.emit [.reply nak, .result (.rejected c)]

/-- Taking a rejection that discards a frame: `emit_reply(NAK)`, `frame_reset()`, `raise Reject(cause)` (R129, R130, R136, R139, R212).
The return is nothing but the next byte taken in IDLE (R213). -/
def State.rejectFrame (s : State) (c : Cause) : State := s.frameReset.takeRejection c

/-- The refusal of a case that R73 does not select (log 5). -/
def whenGuard (g : Prop) [Decidable g] (k : Outcome) : Outcome :=
  if g then k else .refused .caseNotSelected

end Sys2Proof.Machine
end

