-- ==== Sys2Proof/Machine/Operands.lean ====
section
/-! DEFINITION. Operand forms: the fields of an operation word (30_encoding.md R70, R71), the numbering of states and causes (R25,
R210), and the unpacking of a row's packed pixels (20_memory.md R54, 30_encoding.md R84). -/

namespace Sys2Proof

/-- `op = w[11:8]` (R70). -/
def opOf (w : OpWord) : BitVec 4 := w.extractLsb' 8 4

/-- `d = w[7:0]`, "an unsigned byte with no extension, scaling or shift" (R70, R71). -/
def dataOf (w : OpWord) : Byte := w.extractLsb' 0 8

/-- The operation word with operation code `op` and data byte `d`. -/
def opWord (op : BitVec 4) (d : Byte) : OpWord := op ++ d

end Sys2Proof

namespace Sys2Proof.Machine

/-- The encoding of `rx_state` in 3 bits (R25, D4). -/
def RxState.code : RxState → BitVec 3
  | .idle => 0#3
  | .lengthNext => 1#3
  | .dataNext => 2#3
  | .checksumNext => 3#3
  | .etxNext => 4#3

/-- The code of a cause on the result output (R210, D23). -/
def Cause.code : Cause → Nat
  | .badStart => 1
  | .zeroLength => 2
  | .oversize => 3
  | .badChecksum => 4
  | .badEtx => 5

/-- The eight pixels of a packed byte in display order: pixel `k` is bit `7 - k` (R54, R84), true lit. -/
def byteLevels (b : Byte) : List Bool :=
  [b.getLsbD 7, b.getLsbD 6, b.getLsbD 5, b.getLsbD 4, b.getLsbD 3, b.getLsbD 2, b.getLsbD 1, b.getLsbD 0]

/-- The pixels of a packed row, pixel `8j + k` from byte `j` (R54, R84). -/
def rowLevels (bits : List Byte) : List Bool := bits.flatMap byteLevels

/-- The `SetPixel` calls for the pixels `x ..` of row `y`, in order of increasing `x` (R151). -/
def setPixels (y : Nat) : Nat → List Bool → List DisplayCall
  | _, [] => []
  | x, l :: ls => .setPixel x y l :: setPixels y (x + 1) ls

/-- The display calls of a payload: R151 for a row, R152 for a refresh, none otherwise (R153). -/
def dispatchCalls : Payload → List DisplayCall
  | .row index bits => setPixels index.toNat 0 (rowLevels bits)
  | .refresh => [.flush]
  | .unrecognized _ _ _ => []

/-- The dispatch output of a payload (R38). -/
def dispatchEvents (p : Payload) : List OutEvent := (dispatchCalls p).map .dispatch

/-- `RLE_V0` or `RLE_V1`, as the decoder's parity selects (R35, R181). -/
def runValue (c : Config) (parity : Bool) : Byte := if parity then c.rleV1 else c.rleV0

/-- `(enc_pos + 1) mod RECORD_BYTES` (R171). -/
def advancePos (s : State) : Nat := (s.encPos + 1) % s.cfg.recordBytes

end Sys2Proof.Machine
end

