-- ==== Sys2Proof/Machine/Checksum.lean ====
section
/-! DEFINITION. The checksum unit (40_checksum.md R105, R106). Its output is `ck_acc` itself (10_state.md R31, D28). -/

namespace Sys2Proof.Machine

/-- `CK.CLEAR` (R105). -/
def execCkClear (_d : Byte) (s : State) : Outcome := .next ((s.setCk 0x00#8).emit [])

/-- `CK.FOLD` (R106). -/
def execCkFold (d : Byte) (s : State) : Outcome := .next ((s.setCk (s.ckAcc ^^^ d)).emit [])

end Sys2Proof.Machine
end

