-- ==== Sys2Proof/Syntax.lean ====
section
/-! DEFINITION. The instructions: one constructor per row of spec/opcode_table.json. A row of format OPW12 is one case of an
operation (30_encoding.md R70, R73); its data byte is an argument unless the row fixes it. A row of format FRAME_CMD8 is a
wire command code (R83), not an operation word. -/

namespace Sys2Proof

/-- Every row of the opcode table. An argument `d` is the operation word's data byte `d = w[7:0]`. -/
inductive Instr
  /-- `RESET` (70_reset_and_hazards.md R250), `d` ignored. -/
  | reset (d : Byte)
  /-- `RX.IDLE.START` (41_receiver.md R125), `d = 0x02`. -/
  | rxIdleStart
  /-- `RX.IDLE.REJECT` (R126), `d != 0x02`. -/
  | rxIdleReject (d : Byte)
  /-- `RX.LEN.ACCEPT` (R128), `d` the declared length. -/
  | rxLenAccept (d : Byte)
  /-- `RX.LEN.ZERO` (R129), `d = 0x00`. -/
  | rxLenZero
  /-- `RX.LEN.OVERSIZE` (R130), `d` the declared length. -/
  | rxLenOversize (d : Byte)
  /-- `RX.DATA.MORE` (R132), `d` a payload byte. -/
  | rxDataMore (d : Byte)
  /-- `RX.DATA.LAST` (R133), `d` the last payload byte. -/
  | rxDataLast (d : Byte)
  /-- `RX.CK.MATCH` (R135), `d` the checksum byte. -/
  | rxCkMatch (d : Byte)
  /-- `RX.CK.MISMATCH` (R136), `d` the checksum byte. -/
  | rxCkMismatch (d : Byte)
  /-- `RX.ETX.ACCEPT` (R138), `d = 0x03`. -/
  | rxEtxAccept
  /-- `RX.ETX.REJECT` (R139), `d != 0x03`. -/
  | rxEtxReject (d : Byte)
  /-- `CK.CLEAR` (40_checksum.md R105), `d` ignored. -/
  | ckClear (d : Byte)
  /-- `CK.FOLD` (R106), `d` the byte to fold. -/
  | ckFold (d : Byte)
  /-- `ENC.TAIL` (42_rle_codec.md R172), `d` a non-leading byte. -/
  | encTail (d : Byte)
  /-- `ENC.MATCH` (R173), `d` a leading byte. -/
  | encMatch (d : Byte)
  /-- `ENC.CAP` (R174), `d` a leading byte. -/
  | encCap (d : Byte)
  /-- `ENC.MISMATCH` (R175), `d` a leading byte. -/
  | encMismatch (d : Byte)
  /-- `ENC.END` (R176), `d` ignored. -/
  | encEnd (d : Byte)
  /-- `DEC.RUN` (R181), `d` a run count, not `0xFF`. -/
  | decRun (d : Byte)
  /-- `DEC.END` (R182), `d = 0xFF`. -/
  | decEnd
  /-- `RESERVED.7` (30_encoding.md R72), operation code `0x7`. -/
  | reserved7 (d : Byte)
  /-- `RESERVED.8-F` (R72), operation code `0x8 + low`. -/
  | reserved8F (low : BitVec 3) (d : Byte)
  /-- `FRAME.CMD.ROW` (41_receiver.md R150, R151), the command byte `0x00` of a well-formed frame. -/
  | frameCmdRow
  /-- `FRAME.CMD.REFRESH` (R150, R152), the command byte `0x01`. -/
  | frameCmdRefresh
  /-- `FRAME.CMD.UNDEFINED` (R150, R153), any other command byte. -/
  | frameCmdUndefined (cmd : Byte)
  deriving DecidableEq, Repr

end Sys2Proof
end

