-- ==== Sys2Proof/Machine/Flags.lean ====
section
/-! DEFINITION. The block has no flags or condition codes (10_state.md R22). Its conditions are the guards of the operations'
cases (30_encoding.md R73): one per row of the opcode table, as the row and its rule give it. -/

namespace Sys2Proof.Machine

/-- R125: `rx_state == IDLE and d == 0x02`. -/
abbrev idleStartGuard (d : Byte) (s : State) : Prop := s.rxState = .idle ∧ d = stx
/-- R126: `rx_state == IDLE and d != 0x02`. -/
abbrev idleRejectGuard (d : Byte) (s : State) : Prop := s.rxState = .idle ∧ d ≠ stx
/-- R128: `rx_state == LENGTH_NEXT and d >= 1 and 2 + d <= RX_BUF_CAP`, without 8-bit wrap-around (D8). -/
abbrev lenAcceptGuard (d : Byte) (s : State) : Prop :=
  s.rxState = .lengthNext ∧ 1 ≤ d.toNat ∧ 2 + d.toNat ≤ s.cfg.rxBufCap
/-- R129: `rx_state == LENGTH_NEXT and d == 0x00`. -/
abbrev lenZeroGuard (d : Byte) (s : State) : Prop := s.rxState = .lengthNext ∧ d = 0x00#8
/-- R130: `rx_state == LENGTH_NEXT and 2 + d > RX_BUF_CAP`, without 8-bit wrap-around (D8). -/
abbrev lenOversizeGuard (d : Byte) (s : State) : Prop :=
  s.rxState = .lengthNext ∧ s.cfg.rxBufCap < 2 + d.toNat
/-- R132: `rx_state == DATA_NEXT and rx_count + 1 < 2 + L`, with `L = rx_buf[1]`. -/
abbrev dataMoreGuard (s : State) : Prop :=
  s.rxState = .dataNext ∧ ∃ L ∈ s.rxBuf.read 1, s.rxCount + 1 < 2 + L.toNat
/-- R133: `rx_state == DATA_NEXT and rx_count + 1 == 2 + L`, with `L = rx_buf[1]`. -/
abbrev dataLastGuard (s : State) : Prop :=
  s.rxState = .dataNext ∧ ∃ L ∈ s.rxBuf.read 1, s.rxCount + 1 = 2 + L.toNat
/-- R135: `rx_state == CHECKSUM_NEXT and d == rx_acc`. -/
abbrev ckMatchGuard (d : Byte) (s : State) : Prop := s.rxState = .checksumNext ∧ d = s.rxAcc
/-- R136: `rx_state == CHECKSUM_NEXT and d != rx_acc`. -/
abbrev ckMismatchGuard (d : Byte) (s : State) : Prop := s.rxState = .checksumNext ∧ d ≠ s.rxAcc
/-- R138: `rx_state == ETX_NEXT and d == 0x03`. -/
abbrev etxAcceptGuard (d : Byte) (s : State) : Prop := s.rxState = .etxNext ∧ d = etx
/-- R139: `rx_state == ETX_NEXT and d != 0x03`. -/
abbrev etxRejectGuard (d : Byte) (s : State) : Prop := s.rxState = .etxNext ∧ d ≠ etx
/-- R172: `enc_pos != 0`. -/
abbrev encTailGuard (s : State) : Prop := s.encPos ≠ 0
/-- R173: `enc_pos == 0 and d == enc_value and enc_count < 254`. -/
abbrev encMatchGuard (d : Byte) (s : State) : Prop :=
  s.encPos = 0 ∧ d = s.encValue ∧ s.encCount < rleMaxRun
/-- R174: `enc_pos == 0 and d == enc_value and enc_count == 254`. -/
abbrev encCapGuard (d : Byte) (s : State) : Prop :=
  s.encPos = 0 ∧ d = s.encValue ∧ s.encCount = rleMaxRun
/-- R175: `enc_pos == 0 and d != enc_value`. -/
abbrev encMismatchGuard (d : Byte) (s : State) : Prop := s.encPos = 0 ∧ d ≠ s.encValue
/-- R181: `d != 0xFF`. -/
abbrev decRunGuard (d : Byte) : Prop := d ≠ rleCap
/-- R182: `d == 0xFF`. -/
abbrev decEndGuard (d : Byte) : Prop := d = rleCap

/-- The rows FRAME.CMD.*: a frame whose checksum was verified waits for its end marker, and its command byte is one of the
row's codes (R83, R150; log 6). -/
abbrev frameCmdGuard (codes : Byte → Prop) [DecidablePred codes] (s : State) : Prop :=
  s.rxState = .etxNext ∧ ∃ c ∈ s.rxBuf.read 2, codes c

/-- The guard of each row of the opcode table (R73). -/
def caseGuard : Instr → State → Prop
  | .reset _, _ => True
  | .rxIdleStart, s => idleStartGuard stx s
  | .rxIdleReject d, s => idleRejectGuard d s
  | .rxLenAccept d, s => lenAcceptGuard d s
  | .rxLenZero, s => lenZeroGuard 0x00#8 s
  | .rxLenOversize d, s => lenOversizeGuard d s
  | .rxDataMore _, s => dataMoreGuard s
  | .rxDataLast _, s => dataLastGuard s
  | .rxCkMatch d, s => ckMatchGuard d s
  | .rxCkMismatch d, s => ckMismatchGuard d s
  | .rxEtxAccept, s => etxAcceptGuard etx s
  | .rxEtxReject d, s => etxRejectGuard d s
  | .ckClear _, _ => True
  | .ckFold _, _ => True
  | .encTail _, s => encTailGuard s
  | .encMatch d, s => encMatchGuard d s
  | .encCap d, s => encCapGuard d s
  | .encMismatch d, s => encMismatchGuard d s
  | .encEnd _, _ => True
  | .decRun d, _ => decRunGuard d
  | .decEnd, _ => decEndGuard rleCap
  | .reserved7 _, _ => True
  | .reserved8F _ _, _ => True
  | .frameCmdRow, s => frameCmdGuard (· = cmdRow) s
  | .frameCmdRefresh, s => frameCmdGuard (· = cmdRefresh) s
  | .frameCmdUndefined cmd, s => frameCmdGuard (fun c => c = cmd ∧ c ≠ cmdRow ∧ c ≠ cmdRefresh) s

end Sys2Proof.Machine
end

