-- ==== Sys2Proof/Machine/Codec.lean ====
section
/-! DEFINITION. The run-length encoder (42_rle_codec.md R170 to R176) and decoder (R180 to R182). -/

namespace Sys2Proof.Machine

/-- `ENC.TAIL` (R172): only the record position moves. -/
def execEncTail (_d : Byte) (s : State) : Outcome :=
  whenGuard (encTailGuard s) (.next ((s.setEnc s.encValue s.encCount (advancePos s)).emit []))

/-- `ENC.MATCH` (R173). -/
def execEncMatch (d : Byte) (s : State) : Outcome :=
  whenGuard (encMatchGuard d s)
    (.next ((s.setEnc s.encValue (s.encCount + 1#8) (advancePos s)).emit []))

/-- `ENC.CAP` (R174): count bytes `254`, `0`; the real run goes on as length 1. -/
def execEncCap (d : Byte) (s : State) : Outcome :=
  whenGuard (encCapGuard d s)
    (.next ((s.setEnc s.encValue 1#8 (advancePos s)).emit [.count rleMaxRun, .count 0#8]))

/-- `ENC.MISMATCH` (R175). -/
def execEncMismatch (d : Byte) (s : State) : Outcome :=
  whenGuard (encMismatchGuard d s)
    (.next ((s.setEnc d 1#8 (advancePos s)).emit [.count s.encCount]))

/-- `ENC.END` (R176): the current count, the sentinel, and the encoder ready for the next stream. -/
def execEncEnd (_d : Byte) (s : State) : Outcome :=
  .next ((s.setEnc s.cfg.rleV0 0#8 0).emit [.count s.encCount, .count rleCap])

/-- `DEC.RUN` (R181). -/
def execDecRun (d : Byte) (s : State) : Outcome :=
  whenGuard (decRunGuard d)
    (.next ((s.setDec (!s.decParity)).emit [.run (runValue s.cfg s.decParity) d.toNat]))

/-- `DEC.END` (R182). -/
def execDecEnd (s : State) : Outcome := .next ((s.setDec false).emit [.streamEnd])

end Sys2Proof.Machine
end

