-- ==== Sys2Proof/Machine/Frame.lean ====
section
/-! DEFINITION. Payload classification and dispatch (41_receiver.md R150 to R153): what the wire command codes of a well-formed frame
do. The rows FRAME.CMD.* are this part of the accepting step (log 6); RX.ETX.ACCEPT performs it inside its own step (R138). -/

namespace Sys2Proof.Machine

/-- `classify()` for a `ROW` command (R150): a payload too short or a row outside the display is `Unrecognized`. -/
def State.classifyRow (s : State) (L cmd : Byte) : Except Fault Payload :=
  if L.toNat < 2 + s.cfg.wb then .ok (.unrecognized cmd L .rowShort)
  else
    match s.memRead 3 with
    | .error f => .error f
    | .ok r =>
      if s.cfg.height ≤ r.toNat then .ok (.unrecognized cmd L .rowOutOfRange)
      else
        match s.memReads 4 s.cfg.wb with
        | .error f => .error f
        | .ok bits => .ok (.row r bits)

/-- `classify()` (R150). -/
def State.classify (s : State) : Except Fault Payload :=
  match s.memRead 1 with
  | .error f => .error f
  | .ok L =>
    match s.memRead 2 with
    | .error f => .error f
    | .ok cmd =>
      if cmd = cmdRow then s.classifyRow L cmd
      else if cmd = cmdRefresh then .ok .refresh
      else .ok (.unrecognized cmd L .unknownCommand)

/-- Go on with the payload, or stop with the fault of a read. -/
def onPayload (r : Except Fault Payload) (k : Payload → Outcome) : Outcome :=
  match r with
  | .ok p => k p
  | .error f => .fault f

/-- Dispatch of the frame that waits for its end marker, if its command byte is one of `codes`: `dispatch_calls(classify())` on the
dispatch output, nothing else changed (R138's first two lines). -/
def State.dispatchCommand (s : State) (codes : Byte → Prop) [DecidablePred codes] : Outcome :=
  whenGuard (s.rxState = .etxNext) <|
    onRead (s.memRead 2) fun c =>
      whenGuard (codes c) <|
        onPayload s.classify fun p => .next (s.emit (dispatchEvents p))

/-- `FRAME.CMD.ROW` (R150, R151). -/
def execFrameCmdRow (s : State) : Outcome := s.dispatchCommand (· = cmdRow)

/-- `FRAME.CMD.REFRESH` (R150, R152). -/
def execFrameCmdRefresh (s : State) : Outcome := s.dispatchCommand (· = cmdRefresh)

/-- `FRAME.CMD.UNDEFINED` (R150, R153, R85). -/
def execFrameCmdUndefined (cmd : Byte) (s : State) : Outcome :=
  s.dispatchCommand (fun c => c = cmd ∧ c ≠ cmdRow ∧ c ≠ cmdRefresh)

end Sys2Proof.Machine
end

