-- ==== Sys2Proof/Machine/Receiver.lean ====
section
/-! DEFINITION. The receiver (41_receiver.md R120 to R142): one definition per case of `RX_FEED`, each under its guard (R73). -/

namespace Sys2Proof.Machine

/-- `RX.IDLE.START` (R125): buffer the start marker at index 0. -/
def execRxIdleStart (s : State) : Outcome :=
  whenGuard (idleStartGuard stx s) (s.storeByte 0 stx .lengthNext 1 (0x00#8 ^^^ stx))

/-- `RX.IDLE.REJECT` (R126): NAK; state, count, buffer and accumulator unchanged, "no buffer growth" (log 11). -/
def execRxIdleReject (d : Byte) (s : State) : Outcome :=
  whenGuard (idleRejectGuard d s) (.next (s.takeRejection .badStart))

/-- `RX.LEN.ACCEPT` (R128): buffer the declared length at index 1. -/
def execRxLenAccept (d : Byte) (s : State) : Outcome :=
  whenGuard (lenAcceptGuard d s) (s.storeByte 1 d .dataNext 2 (s.rxAcc ^^^ d))

/-- `RX.LEN.ZERO` (R129). -/
def execRxLenZero (s : State) : Outcome :=
  whenGuard (lenZeroGuard 0x00#8 s) (.next (s.rejectFrame .zeroLength))

/-- `RX.LEN.OVERSIZE` (R130). -/
def execRxLenOversize (d : Byte) (s : State) : Outcome :=
  whenGuard (lenOversizeGuard d s) (.next (s.rejectFrame .oversize))

/-- A payload byte, if `DATA_NEXT` and the guard's condition on `rx_count` and `L` holds (R132, R133): buffered at index `rx_count`. -/
def State.payloadByte (s : State) (d : Byte) (cond : Nat → Nat → Prop) [∀ n L, Decidable (cond n L)]
    (st : RxState) : Outcome :=
  whenGuard (s.rxState = .dataNext) <|
    onRead (s.memRead 1) fun L =>
      whenGuard (cond s.rxCount L.toNat) <|
        s.storeByte s.rxCount d st (s.rxCount + 1) (s.rxAcc ^^^ d)

/-- `RX.DATA.MORE` (R132). -/
def execRxDataMore (d : Byte) (s : State) : Outcome :=
  s.payloadByte d (fun n L => n + 1 < 2 + L) .dataNext

/-- `RX.DATA.LAST` (R133). -/
def execRxDataLast (d : Byte) (s : State) : Outcome :=
  s.payloadByte d (fun n L => n + 1 = 2 + L) .checksumNext

/-- `RX.CK.MATCH` (R135): the checksum byte is not buffered. -/
def execRxCkMatch (d : Byte) (s : State) : Outcome :=
  whenGuard (ckMatchGuard d s)
    (.next ((s.setReceiver .etxNext s.rxCount s.rxAcc).emit [.result .pending]))

/-- `RX.CK.MISMATCH` (R136). -/
def execRxCkMismatch (d : Byte) (s : State) : Outcome :=
  whenGuard (ckMismatchGuard d s) (.next (s.rejectFrame .badChecksum))

/-- `RX.ETX.ACCEPT` (R138): the dispatch calls in order, then the ACK, frame reset, result (R142). -/
def execRxEtxAccept (s : State) : Outcome :=
  whenGuard (etxAcceptGuard etx s) <|
    onPayload s.classify fun p =>
      .next (s.frameReset.emit (dispatchEvents p ++ [.reply ack, .result (.accepted p)]))

/-- `RX.ETX.REJECT` (R139). -/
def execRxEtxReject (d : Byte) (s : State) : Outcome :=
  whenGuard (etxRejectGuard d s) (.next (s.rejectFrame .badEtx))

end Sys2Proof.Machine
end

