-- ==== Sys2Proof/Machine/System.lean ====
section
/-! DEFINITION. RESET (70_reset_and_hazards.md R250) and the reserved operation codes (30_encoding.md R72). -/

namespace Sys2Proof.Machine

/-- `RESET` (R250): every unit to its value of R252, no output. The parameters (R7) and the words still presented stay. -/
def execReset (_d : Byte) (s : State) : Outcome :=
  .next ((State.resetWith s.cfg).setPending s.pending)

/-- `RESERVED.7` (R72): "a model **refuses** them". -/
def execReserved7 (d : Byte) (_s : State) : Outcome :=
  .refused (.reservedOperation 0x7#4 d)

/-- `RESERVED.8-F` (R72): "a model **refuses** them". -/
def execReserved8F (low : BitVec 3) (d : Byte) (_s : State) : Outcome :=
  .refused (.reservedOperation (1#1 ++ low) d)

end Sys2Proof.Machine
end

