-- ==== Sys2Proof/Machine/Dispatch.lean ====
section
/-! DEFINITION. exec: one arm per constructor of Instr, in the opcode table's order, each one call of its meaning. -/

namespace Sys2Proof.Machine

def exec (i : Instr) (s : State) : Host.Outcome State Fault Refusal :=
  match i with
  | .reset d => Sys2Proof.Machine.execReset d s
  | .rxIdleStart => Sys2Proof.Machine.execRxIdleStart s
  | .rxIdleReject d => Sys2Proof.Machine.execRxIdleReject d s
  | .rxLenAccept d => Sys2Proof.Machine.execRxLenAccept d s
  | .rxLenZero => Sys2Proof.Machine.execRxLenZero s
  | .rxLenOversize d => Sys2Proof.Machine.execRxLenOversize d s
  | .rxDataMore d => Sys2Proof.Machine.execRxDataMore d s
  | .rxDataLast d => Sys2Proof.Machine.execRxDataLast d s
  | .rxCkMatch d => Sys2Proof.Machine.execRxCkMatch d s
  | .rxCkMismatch d => Sys2Proof.Machine.execRxCkMismatch d s
  | .rxEtxAccept => Sys2Proof.Machine.execRxEtxAccept s
  | .rxEtxReject d => Sys2Proof.Machine.execRxEtxReject d s
  | .ckClear d => Sys2Proof.Machine.execCkClear d s
  | .ckFold d => Sys2Proof.Machine.execCkFold d s
  | .encTail d => Sys2Proof.Machine.execEncTail d s
  | .encMatch d => Sys2Proof.Machine.execEncMatch d s
  | .encCap d => Sys2Proof.Machine.execEncCap d s
  | .encMismatch d => Sys2Proof.Machine.execEncMismatch d s
  | .encEnd d => Sys2Proof.Machine.execEncEnd d s
  | .decRun d => Sys2Proof.Machine.execDecRun d s
  | .decEnd => Sys2Proof.Machine.execDecEnd s
  | .reserved7 d => Sys2Proof.Machine.execReserved7 d s
  | .reserved8F low d => Sys2Proof.Machine.execReserved8F low d s
  | .frameCmdRow => Sys2Proof.Machine.execFrameCmdRow s
  | .frameCmdRefresh => Sys2Proof.Machine.execFrameCmdRefresh s
  | .frameCmdUndefined cmd => Sys2Proof.Machine.execFrameCmdUndefined cmd s

end Sys2Proof.Machine
end

