-- ==== Sys2Proof/WellFormed.lean ====
section
/-! DEFINITION. Which terms of `Instr` a word can spell: the conditions the opcode table's rows put on the data byte alone
(spec/opcode_table.json, source_fields). Conditions on the state are guards (Machine/Flags.lean). -/

namespace Sys2Proof
open Sys2Proof.Machine

/-- The condition each row puts on its data byte. `RX.LEN.OVERSIZE` needs `2 + d > RX_BUF_CAP >= 5`, so `d >= 4` (R130). -/
abbrev Instr.WellFormed : Instr → Prop
  | .rxIdleReject d => d ≠ stx
  | .rxLenAccept d => 1 ≤ d.toNat
  | .rxLenOversize d => 4 ≤ d.toNat
  | .rxEtxReject d => d ≠ etx
  | .decRun d => d ≠ rleCap
  | .frameCmdUndefined c => c ≠ cmdRow ∧ c ≠ cmdRefresh
  | .reset _ => True
  | .rxIdleStart => True
  | .rxLenZero => True
  | .rxDataMore _ => True
  | .rxDataLast _ => True
  | .rxCkMatch _ => True
  | .rxCkMismatch _ => True
  | .rxEtxAccept => True
  | .ckClear _ => True
  | .ckFold _ => True
  | .encTail _ => True
  | .encMatch _ => True
  | .encCap _ => True
  | .encMismatch _ => True
  | .encEnd _ => True
  | .decEnd => True
  | .reserved7 _ => True
  | .reserved8F _ _ => True
  | .frameCmdRow => True
  | .frameCmdRefresh => True

end Sys2Proof
end

