-- ==== Sys2Proof/Decode.lean ====
section
/-! DEFINITION. Decoding and encoding. A decoder selects the operation by `op` alone, then the operation's case by the guards
(30_encoding.md R73), so it reads the word and the state. A wire command byte (R83) is decoded by itself. -/

namespace Sys2Proof
open Sys2Proof.Machine

/-- An instruction's encoding: an operation word (format OPW12 of the table) or a wire command byte (format FRAME_CMD8). -/
inductive CodeWord
  | opw12 (w : OpWord)
  | frameCmd8 (b : Byte)
  deriving DecidableEq, Repr

/-- Why bits spell no instruction. -/
inductive DecodeError
  /-- The bits are not one operation word or one command byte: the length `nbits` is neither (R74). -/
  | length (nbits : Nat)
  /-- A bit above the word's 12 bits (or the command byte's 8) is set. -/
  | bitsAbove
  /-- The guard of the DATA_NEXT cases reads `L = rx_buf[1]`, and that read faults (R53). No run reaches it. -/
  | unreadable (f : Fault)
  /-- No case's guard holds; in no state a run reaches (R73). -/
  | noCase
  deriving DecidableEq, Repr

/-- The case of `RX_FEED d` (R125 to R139). -/
def selectRx (d : Byte) (s : State) : Except DecodeError Instr :=
  match s.rxState with
  | .idle => .ok (if d = stx then .rxIdleStart else .rxIdleReject d)
  | .lengthNext =>
    .ok (if d = 0x00#8 then .rxLenZero
      else if 2 + d.toNat ≤ s.cfg.rxBufCap then .rxLenAccept d else .rxLenOversize d)
  | .dataNext =>
    match s.memRead 1 with
    | .error f => .error (.unreadable f)
    | .ok L =>
      if s.rxCount + 1 < 2 + L.toNat then .ok (.rxDataMore d)
      else if s.rxCount + 1 = 2 + L.toNat then .ok (.rxDataLast d)
      else .error .noCase
  | .checksumNext => .ok (if d = s.rxAcc then .rxCkMatch d else .rxCkMismatch d)
  | .etxNext => .ok (if d = etx then .rxEtxAccept else .rxEtxReject d)

/-- The case of `ENC_BYTE d` (R172 to R175). -/
def selectEnc (d : Byte) (s : State) : Except DecodeError Instr :=
  if s.encPos ≠ 0 then .ok (.encTail d)
  else if d ≠ s.encValue then .ok (.encMismatch d)
  else if s.encCount < rleMaxRun then .ok (.encMatch d)
  else if s.encCount = rleMaxRun then .ok (.encCap d)
  else .error .noCase

/-- The case of `DEC_COUNT d` (R181, R182). -/
def selectDec (d : Byte) : Instr := if d = rleCap then .decEnd else .decRun d

/-- The decoder of operation words (R70, R72, R73). -/
def decodeOp (w : OpWord) (s : State) : Except DecodeError Instr :=
  match opOf w with
  | 0x0#4 => .ok (.reset (dataOf w))
  | 0x1#4 => selectRx (dataOf w) s
  | 0x2#4 => .ok (.ckClear (dataOf w))
  | 0x3#4 => .ok (.ckFold (dataOf w))
  | 0x4#4 => selectEnc (dataOf w) s
  | 0x5#4 => .ok (.encEnd (dataOf w))
  | 0x6#4 => .ok (selectDec (dataOf w))
  | 0x7#4 => .ok (.reserved7 (dataOf w))
  | _ => .ok (.reserved8F ((opOf w).extractLsb' 0 3) (dataOf w))

/-- The decoder of the wire command byte (R83, R85). -/
def decodeCmd (b : Byte) : Instr :=
  if b = cmdRow then .frameCmdRow
  else if b = cmdRefresh then .frameCmdRefresh
  else .frameCmdUndefined b

/-- The decoder: total, the case of an operation word selected in the state `s`. -/
def decode (c : CodeWord) (s : State) : Except DecodeError Instr :=
  match c with
  | .opw12 w => decodeOp w s
  | .frameCmd8 b => .ok (decodeCmd b)

/-- The code word that `nbits` bits of value `w` spell, numbered as spec/opcode_table.json numbers them: up to 8 bits a command byte,
9 to 16 bits (12 in whole bytes) an operation word whose upper bits are 0 (R74; log 7). -/
def codeWordOf (nbits w : Nat) : Except DecodeError CodeWord :=
  if nbits = 0 ∨ 16 < nbits then .error (.length nbits)
  else if nbits ≤ 8 then
    if w < 256 then .ok (.frameCmd8 (BitVec.ofNat 8 w)) else .error .bitsAbove
  else if w < 4096 then .ok (.opw12 (BitVec.ofNat 12 w)) else .error .bitsAbove

/-- What the decoder reads from a table word in the reset state (log 7). -/
def decodeTableWord (nbits w : Nat) : Option Instr :=
  match codeWordOf nbits w with
  | .error _ => none
  | .ok c =>
    match decode c State.reset with
    | .error _ => none
    | .ok i => some i

/-- The encoder, from the same table. -/
def encode : Instr → CodeWord
  | .reset d => .opw12 (opWord 0x0#4 d)
  | .rxIdleStart => .opw12 (opWord 0x1#4 stx)
  | .rxIdleReject d => .opw12 (opWord 0x1#4 d)
  | .rxLenAccept d => .opw12 (opWord 0x1#4 d)
  | .rxLenZero => .opw12 (opWord 0x1#4 0x00#8)
  | .rxLenOversize d => .opw12 (opWord 0x1#4 d)
  | .rxDataMore d => .opw12 (opWord 0x1#4 d)
  | .rxDataLast d => .opw12 (opWord 0x1#4 d)
  | .rxCkMatch d => .opw12 (opWord 0x1#4 d)
  | .rxCkMismatch d => .opw12 (opWord 0x1#4 d)
  | .rxEtxAccept => .opw12 (opWord 0x1#4 etx)
  | .rxEtxReject d => .opw12 (opWord 0x1#4 d)
  | .ckClear d => .opw12 (opWord 0x2#4 d)
  | .ckFold d => .opw12 (opWord 0x3#4 d)
  | .encTail d => .opw12 (opWord 0x4#4 d)
  | .encMatch d => .opw12 (opWord 0x4#4 d)
  | .encCap d => .opw12 (opWord 0x4#4 d)
  | .encMismatch d => .opw12 (opWord 0x4#4 d)
  | .encEnd d => .opw12 (opWord 0x5#4 d)
  | .decRun d => .opw12 (opWord 0x6#4 d)
  | .decEnd => .opw12 (opWord 0x6#4 rleCap)
  | .reserved7 d => .opw12 (opWord 0x7#4 d)
  | .reserved8F low d => .opw12 (opWord (1#1 ++ low) d)
  | .frameCmdRow => .frameCmd8 cmdRow
  | .frameCmdRefresh => .frameCmd8 cmdRefresh
  | .frameCmdUndefined c => .frameCmd8 c

end Sys2Proof
end

