-- ==== Sys2Proof/Machine/Fetch.lean ====
section
/-! DEFINITION. How a step takes its operation: the word presented first (00_scope.md R12, 20_memory.md R59), and what a step does where
a word selects no case. The block fetches nothing from a memory (10_state.md R21). -/

namespace Sys2Proof.Machine

/-- The word presented first, and those after it. -/
def State.nextWord (s : State) : Option (OpWord × List OpWord) :=
  match s.pending with
  | [] => none
  | w :: ws => some (w, ws)

/-- No operation presented: the registers do not change and nothing is output (R12, 41_receiver.md R123; log 2). -/
def State.idleStep (s : State) : Outcome := .next (s.emit [])

/-- The stop for a word whose case cannot be selected. -/
def stopOf : DecodeError → Outcome
  | .unreadable f => .fault f
  | .noCase => .refused .noCaseSelected
  | .length _ => .refused .noCaseSelected
  | .bitsAbove => .refused .noCaseSelected

/-- The word `w` presented before all others. -/
def State.present (s : State) (w : OpWord) : State := s.setPending (w :: s.pending)

/-- The buffer bytes of a complete frame with command `cmd`, data bytes 0 and the length of a row frame, `2 + WB` (R51, R83). -/
def zeroFrameBytes (c : Config) (cmd : Byte) : List Byte :=
  [stx, BitVec.ofNat 8 (2 + c.wb), cmd] ++ List.replicate (1 + c.wb) 0x00#8

/-- The receiver with that frame buffered and its checksum verified, waiting for the end marker. -/
def State.withFrame (s : State) (bytes : List Byte) : State :=
  (s.setBuf (Memory.ofBytes 0 bytes)).setReceiver .etxNext bytes.length (foldXor bytes)

end Sys2Proof.Machine
end

