-- ==== Sys2Proof/Machine/Step.lean ====
section
/-! DEFINITION. One step of the block (00_scope.md R12): take the word presented first, select its case in the present state (R73), run it.
With no word presented nothing happens (R123). -/

namespace Sys2Proof.Machine

/-- One operation, atomic (R12, 20_memory.md R56). -/
def step (s : State) : Host.Outcome State Fault Refusal :=
  match s.nextWord with
  | none => s.idleStep
  | some (w, ws) =>
    match decodeOp w s with
    | .ok i => exec i (s.setPending ws)
    | .error e => stopOf e

/-- The state whose very next step runs the table word: an operation word is presented first; for a wire command code the
receiver holds a complete frame with that command, and its end marker is presented (log 6, log 7). Bits that spell no code word
change nothing. -/
def State.withFetchWord (s : State) (nbits w : Nat) : State :=
  match codeWordOf nbits w with
  | .ok (.opw12 x) => s.present x
  | .ok (.frameCmd8 c) => (s.withFrame (zeroFrameBytes s.cfg c)).present (opWord 0x1#4 etx)
  | .error _ => s

end Sys2Proof.Machine
end

