-- ==== Sys2Proof/Machine/Run.lean ====
section
/-! DEFINITION. Runs: presenting operation words one after another and collecting each step's outputs (20_memory.md R58), and the
streams of each output. -/

namespace Sys2Proof.Machine

/-- Present the words in order, one step each; the state after the last and every step's outputs, or none if a step stops. -/
def runWords : List OpWord → State → Option (State × List (List OutEvent))
  | [], s => some (s, [])
  | w :: ws, s =>
    match step (s.present w) with
    | .next t =>
      match runWords ws t with
      | some (u, os) => some (u, t.out :: os)
      | none => none
    | .fault _ => none
    | .refused _ => none

/-- The reply bytes among a step's outputs (R36). -/
def repliesOf : List OutEvent → List Byte
  | [] => []
  | .reply b :: es => b :: repliesOf es
  | .result _ :: es => repliesOf es
  | .dispatch _ :: es => repliesOf es
  | .count _ :: es => repliesOf es
  | .run _ _ :: es => repliesOf es
  | .streamEnd :: es => repliesOf es

/-- The results among a step's outputs (R37). -/
def resultsOf : List OutEvent → List Result
  | [] => []
  | .result r :: es => r :: resultsOf es
  | .reply _ :: es => resultsOf es
  | .dispatch _ :: es => resultsOf es
  | .count _ :: es => resultsOf es
  | .run _ _ :: es => resultsOf es
  | .streamEnd :: es => resultsOf es

/-- The display calls among a step's outputs (R38). -/
def dispatchesOf : List OutEvent → List DisplayCall
  | [] => []
  | .dispatch c :: es => c :: dispatchesOf es
  | .reply _ :: es => dispatchesOf es
  | .result _ :: es => dispatchesOf es
  | .count _ :: es => dispatchesOf es
  | .run _ _ :: es => dispatchesOf es
  | .streamEnd :: es => dispatchesOf es

/-- The encoder's count bytes among a step's outputs (R39). -/
def countsOf : List OutEvent → List Byte
  | [] => []
  | .count c :: es => c :: countsOf es
  | .reply _ :: es => countsOf es
  | .result _ :: es => countsOf es
  | .dispatch _ :: es => countsOf es
  | .run _ _ :: es => countsOf es
  | .streamEnd :: es => countsOf es

/-- The decoder's *byte view*: `n` copies of `value` for each run (42_rle_codec.md R180). -/
def byteView : List OutEvent → List Byte
  | [] => []
  | .run v n :: es => List.replicate n v ++ byteView es
  | .reply _ :: es => byteView es
  | .result _ :: es => byteView es
  | .dispatch _ :: es => byteView es
  | .count _ :: es => byteView es
  | .streamEnd :: es => byteView es

end Sys2Proof.Machine
end

