-- ==== Sys2Proof/Machine/Script.lean ====
section
/-! DEFINITION. The script syntax (30_encoding.md R91) and the pseudo-operations (R92), as the words they stand for. -/

namespace Sys2Proof.Machine

/-- A line of a script (R91). -/
inductive ScriptLine
  | reset
  | feed (b : Byte)
  | ckClear
  | ckFold (b : Byte)
  | encByte (b : Byte)
  | encEnd
  | decCount (b : Byte)
  deriving DecidableEq, Repr

/-- "Each line is one operation word" (R91). -/
def ScriptLine.word : ScriptLine → OpWord
  | .reset => opWord 0x0#4 0x00#8
  | .feed b => opWord 0x1#4 b
  | .ckClear => opWord 0x2#4 0x00#8
  | .ckFold b => opWord 0x3#4 b
  | .encByte b => opWord 0x4#4 b
  | .encEnd => opWord 0x5#4 0x00#8
  | .decCount b => opWord 0x6#4 b

/-- A script as the words presented. -/
def scriptWords (ls : List ScriptLine) : List OpWord := ls.map ScriptLine.word

/-- `FEEDS b1 ... bn` (R92). -/
def feeds (bs : List Byte) : List OpWord := scriptWords (bs.map .feed)

/-- `CK.FOLD` over a byte sequence. -/
def ckFolds (bs : List Byte) : List OpWord := scriptWords (bs.map .ckFold)

/-- The span the checksum covers, start marker through last payload byte, with `L = 1 + m` (R81, R82, R92). R92 requires `m <= 254`;
beyond that the length byte is `1 + m` modulo 256 and the list spells no frame (DESIGN CHOICE, log 16). -/
def frameSpan (cmd : Byte) (data : List Byte) : List Byte :=
  stx :: BitVec.ofNat 8 (1 + data.length) :: cmd :: data

/-- `FRAME.RAW cmd, d1 ... dm` (R92): the frame's bytes, for the `m <= 254` that R92 requires; beyond it, log 16. -/
def frameRaw (cmd : Byte) (data : List Byte) : List Byte :=
  frameSpan cmd data ++ [foldXor (frameSpan cmd data), etx]

/-- `FRAME.ROW r, b0 ... b(WB-1)` (R92). -/
def frameRow (r : Byte) (bits : List Byte) : List Byte := frameRaw cmdRow (r :: bits)

/-- `FRAME.REFRESH` (R92). -/
def frameRefresh : List Byte := frameRaw cmdRefresh []

/-- One record: its leading byte, then the bytes that take no part in run detection (R90). -/
def encRecord (lead : Byte) (tail : List Byte) : List OpWord := scriptWords ((lead :: tail).map .encByte)

/-- `ENC.RECORDS v1 ... vn` (R92), for any `RECORD_BYTES` (log 12): each leading byte followed by `RECORD_BYTES - 1` fillers `0x00`. -/
def encRecords (c : Config) (vs : List Byte) : List OpWord :=
  vs.flatMap fun v => encRecord v (List.replicate (c.recordBytes - 1) 0x00#8)

/-- `DEC.COUNTS c1 ... cn` (R92). -/
def decCounts (cs : List Byte) : List OpWord := scriptWords (cs.map .decCount)

end Sys2Proof.Machine
end

