-- ==== Sys2Proof/Machine/LinkPartner.lean ====
section
/-! DEFINITION. The host transmitter's contract (60_exceptions.md R230 to R238). It is the environment of the block (00_scope.md R6,
92_eei_decisions.md D29): nothing here is called by a step. What the spec leaves to the host is an argument (log 13). -/

namespace Sys2Proof.Machine

/-- Eight pixels in one byte, "MSB-first" (R230). -/
def packByte (a b c d e f g h : Bool) : Byte :=
  BitVec.ofBool a ++ BitVec.ofBool b ++ BitVec.ofBool c ++ BitVec.ofBool d ++
  BitVec.ofBool e ++ BitVec.ofBool f ++ BitVec.ofBool g ++ BitVec.ofBool h

/-- The packed bytes of a row, one per group of eight pixels. -/
def packRow : List Bool → List Byte
  | a :: b :: c :: d :: e :: f :: g :: h :: rest => packByte a b c d e f g h :: packRow rest
  | _ => []

/-- `craft_row_frame` (R230) on one colour channel of a pixel row: a pixel is on where the channel is not zero. -/
def craftRowFrame (channel : List Byte) (row : Byte) : List Byte :=
  frameRow row (packRow (channel.map fun v => decide (v ≠ 0x00#8)))

/-- `craft_refresh_frame` (R231). -/
def craftRefreshFrame : List Byte := frameRefresh

/-- How a send ends (R233 to R236). -/
inductive SendEnd
  /-- "Reply is `ACK`: success" (R234). -/
  | delivered
  /-- "No reply within the bound: **fatal**" (R233). -/
  | fatalTimeout
  /-- "if attempts are exhausted, **fatal**" (R235). -/
  | fatalExhausted
  /-- "Any other byte: undefined in the reference" (R236): the host model has no meaning for it. -/
  | unmodelledReply (b : Byte)
  deriving DecidableEq, Repr

/-- The host's side of the link: its peer's state, the reply bytes not yet read (oldest first), the frames written so far. -/
structure LinkSide (σ : Type) where
  peer   : σ
  queue  : List Byte
  frames : Nat
  deriving DecidableEq, Repr

/-- `send_and_await_ack(frame, max_attempts)` (R232 to R236): write the frame, read exactly one reply byte, the oldest queued (R262);
on NAK resend while attempts remain. `answer` is the peer: the bytes it receives, the replies it writes. -/
def sendAndAwait {σ : Type} (answer : List Byte → σ → σ × List Byte) (frame : List Byte) :
    Nat → LinkSide σ → SendEnd × LinkSide σ
  | 0, l => (.fatalExhausted, l)
  | n + 1, l =>
    match l.queue ++ (answer frame l.peer).2 with
    | [] => (.fatalTimeout, ⟨(answer frame l.peer).1, [], l.frames + 1⟩)
    | b :: rest =>
      if b = ack then (.delivered, ⟨(answer frame l.peer).1, rest, l.frames + 1⟩)
      else if b = nak then sendAndAwait answer frame n ⟨(answer frame l.peer).1, rest, l.frames + 1⟩
      else (.unmodelledReply b, ⟨(answer frame l.peer).1, rest, l.frames + 1⟩)

/-- Sending frames one after another, "at most one frame in flight", up to the first fatal end (R237, R238). -/
def sendAll {σ : Type} (answer : List Byte → σ → σ × List Byte) (attempts : Nat) :
    List (List Byte) → LinkSide σ → SendEnd × LinkSide σ
  | [], l => (.delivered, l)
  | f :: fs, l =>
    match sendAndAwait answer f attempts l with
    | (.delivered, l') => sendAll answer attempts fs l'
    | (.fatalTimeout, l') => (.fatalTimeout, l')
    | (.fatalExhausted, l') => (.fatalExhausted, l')
    | (.unmodelledReply b, l') => (.unmodelledReply b, l')

/-- One colour channel of the pixel data, three interleaved bytes a pixel, channel 0 first (DESIGN CHOICE, log 17: the spec gives only
the size); which channel is tested is the host's choice (N28, log 13). Bytes short of a whole pixel are dropped. -/
def channelOf (ch : Fin 3) : List Byte → List Byte
  | r :: g :: b :: rest =>
    (match ch with
      | 0 => r
      | 1 => g
      | 2 => b) :: channelOf ch rest
  | _ => []

/-- The row frames of an image's channel, rows `y ..` of `width` pixels, `n` rows, stored row after row (DESIGN CHOICE, log 17). -/
def rowFrames (width : Nat) (y : Nat) : Nat → List Byte → List (List Byte)
  | 0, _ => []
  | n + 1, px => craftRowFrame (px.take width) (BitVec.ofNat 8 y) :: rowFrames width (y + 1) n (px.drop width)

/-- The driving loop (R237, R238): none where "the image size does not match the expected dimensions"; else drain the replies already
waiting, send every row in order, then one refresh frame. -/
def transfer {σ : Type} (answer : List Byte → σ → σ × List Byte) (c : Config) (ch : Fin 3) (attempts : Nat)
    (image : List Byte) (l : LinkSide σ) : Option (SendEnd × LinkSide σ) :=
  if image.length = c.width * c.height * 3 then
    some (sendAll answer attempts
      (rowFrames c.width 0 c.height (channelOf ch image) ++ [craftRefreshFrame]) { l with queue := [] })
  else none

/-- The block as the peer: the replies its steps write for the bytes it is fed. If a step stops, no further reply (no run does). -/
def blockAnswer (bytes : List Byte) (s : State) : State × List Byte :=
  match runWords (feeds bytes) s with
  | some (t, os) => (t, repliesOf os.flatten)
  | none => (s, [])

end Sys2Proof.Machine
end

