-- ==== Sys2Proof/Safety.lean ====
section
/-! DEFINITION. The invariants of the block (10_state.md R27, R28, R30, R33, R34), what counts as a safe step, and the units of R24 and
R222: the terms the statements use. -/

namespace Sys2Proof.Machine

/-- "Entries `rx_buf[0 .. rx_count)` hold values and entries `rx_buf[rx_count ..)` hold no value" (R27): the indices listed are
`0 .. rx_count - 1` in order. -/
def State.bufShape (s : State) : Prop := s.rxBuf.map Prod.fst = List.range s.rxCount

/-- `rx_acc` "equals `fold_xor(rx_buf[0 .. rx_count))`" (R28). -/
def State.accShape (s : State) : Prop := s.rxAcc = foldXor (s.rxBuf.map Prod.snd)

/-- A frame of declared length `L` is in progress: the columns R30's last three rows share. -/
def State.holdsFrame (s : State) (L : Byte) : Prop :=
  1 ≤ L.toNat ∧ 2 + L.toNat ≤ s.cfg.rxBufCap ∧ s.rxBuf.read 0 = some stx ∧ s.rxBuf.read 1 = some L

/-- The row of R30's table for the present `rx_state`. -/
def State.stateRow (s : State) : Prop :=
  match s.rxState with
  | .idle => s.rxCount = 0 ∧ s.rxBuf = [] ∧ s.rxAcc = 0x00#8
  | .lengthNext => s.rxCount = 1 ∧ s.rxBuf.read 0 = some stx ∧ s.rxAcc = stx
  | .dataNext => ∃ L, s.holdsFrame L ∧ 2 ≤ s.rxCount ∧ s.rxCount < 2 + L.toNat
  | .checksumNext => ∃ L, s.holdsFrame L ∧ s.rxCount = 2 + L.toNat
  | .etxNext => ∃ L, s.holdsFrame L ∧ s.rxCount = 2 + L.toNat

/-- The receiver's invariant (R27, R28, R30). -/
def State.RxInv (s : State) : Prop := s.bufShape ∧ s.accShape ∧ s.stateRow

/-- The encoder's invariant: the ranges of R33 and R34, and "It is `0` only before the first record of a stream" (R33). -/
def State.EncInv (s : State) : Prop :=
  s.encCount ≤ rleMaxRun ∧ s.encPos < s.cfg.recordBytes ∧
  (s.encCount = 0#8 → s.encValue = s.cfg.rleV0 ∧ s.encPos = 0)

/-- The invariant of the block: parameters in range (R7), receiver, encoder. The other registers range over all their values. -/
def State.Inv (s : State) : Prop := s.cfg.Valid ∧ s.RxInv ∧ s.EncInv

/-- `t` is `s` after a rejection with cause `c` that discards the frame (R121, R210, R212): NAK, then the cause, the receiver idle with
an empty buffer, everything else as in `s`. -/
def rejectedFrom (s t : State) (c : Cause) : Prop :=
  t = { s with rxState := .idle, rxCount := 0, rxAcc := 0x00#8, rxBuf := t.rxBuf,
               out := [.reply 0x15#8, .result (.rejected c)] } ∧
  ∀ a, t.rxBuf.read a = none

/-- The cases that reject (R157: "rules R126, R129, R130, R136, R139"). -/
def rejecting : Instr → Bool
  | .rxIdleReject _ => true
  | .rxLenZero => true
  | .rxLenOversize _ => true
  | .rxCkMismatch _ => true
  | .rxEtxReject _ => true
  | _ => false

/-- How many further bytes bring the receiver back to IDLE at most (R158). -/
def State.returnBound (s : State) : Nat :=
  match s.rxState with
  | .idle => 0
  | .lengthNext => s.cfg.rxBufCap + 1
  | .dataNext =>
    match s.rxBuf.read 1 with
    | some L => (2 + L.toNat - s.rxCount) + 2
    | none => 0
  | .checksumNext => 2
  | .etxNext => 1

/-- A step that does not stop, or stops because the word presented first is reserved, with that word's fields in the refusal (R72). -/
def State.safeStep (s : State) : Prop :=
  (∃ t, step s = .next t) ∨
  ∃ w ws, s.pending = w :: ws ∧ 7 ≤ (opOf w).toNat ∧ step s = .refused (.reservedOperation (opOf w) (dataOf w))

/-- The four units (R24, R222). -/
inductive BlockUnit
  | receiver
  | checksum
  | encoder
  | decoder
  deriving DecidableEq, Repr

/-- The registers of one unit (R24). -/
inductive UnitView
  | receiver (st : RxState) (buf : Memory) (count : Nat) (acc : Byte)
  | checksum (acc : Byte)
  | encoder (value count : Byte) (pos : Nat)
  | decoder (parity : Bool)
  deriving DecidableEq, Repr

/-- What a unit holds in a state. -/
def State.view (s : State) : BlockUnit → UnitView
  | .receiver => .receiver s.rxState s.rxBuf s.rxCount s.rxAcc
  | .checksum => .checksum s.ckAcc
  | .encoder => .encoder s.encValue s.encCount s.encPos
  | .decoder => .decoder s.decParity

/-- Whether an operation word is a step of the unit: its own operations and RESET (R222). -/
def concerns (u : BlockUnit) (w : OpWord) : Bool :=
  match u with
  | .receiver => opOf w == 0x0#4 || opOf w == 0x1#4
  | .checksum => opOf w == 0x0#4 || opOf w == 0x2#4 || opOf w == 0x3#4
  | .encoder => opOf w == 0x0#4 || opOf w == 0x4#4 || opOf w == 0x5#4
  | .decoder => opOf w == 0x0#4 || opOf w == 0x6#4

/-- Whether an output is one of the unit's: replies, results and dispatch of the receiver (R36 to R38), counts of the encoder, runs and
ends of the decoder (R39). The checksum unit's output is its register (R31). -/
def emittedBy (u : BlockUnit) (e : OutEvent) : Bool :=
  match u, e with
  | .receiver, .reply _ => true
  | .receiver, .result _ => true
  | .receiver, .dispatch _ => true
  | .encoder, .count _ => true
  | .decoder, .run _ _ => true
  | .decoder, .streamEnd => true
  | _, _ => false

/-- The payload that R150 gives a frame with command `cmd` and data bytes `data`, read off the frame instead of the buffer. -/
def payloadOf (c : Config) (cmd : Byte) (data : List Byte) : Payload :=
  if cmd = cmdRow then
    match data with
    | [] => .unrecognized cmd 1#8 .rowShort
    | r :: rest =>
      if rest.length < c.wb then .unrecognized cmd (BitVec.ofNat 8 (1 + data.length)) .rowShort
      else if c.height ≤ r.toNat then .unrecognized cmd (BitVec.ofNat 8 (1 + data.length)) .rowOutOfRange
      else .row r (rest.take c.wb)
  else if cmd = cmdRefresh then .refresh
  else .unrecognized cmd (BitVec.ofNat 8 (1 + data.length)) .unknownCommand

/-- The counts of one run of `n >= 1` records (42_rle_codec.md R178): `q = (n - 1) div 254` pairs `254, 0`, then `n - 254q`. -/
def runCounts (n : Nat) : List Byte :=
  (List.replicate ((n - 1) / 254) [rleMaxRun, 0#8]).flatten ++ [BitVec.ofNat 8 (n - 254 * ((n - 1) / 254))]

/-- The count stream of the leading bytes `ls` (R178): a `0` where the first is not `RLE_V0` or there is none, the counts of each run of
equal leading bytes, the sentinel. -/
def streamCounts (c : Config) (ls : List Byte) : List Byte :=
  (if ls.head? = some c.rleV0 then [] else [0#8]) ++
  (ls.splitBy (· == ·)).flatMap (fun run => runCounts run.length) ++ [rleCap]

end Sys2Proof.Machine
end

