-- ==== Sys2Proof/Certificates/Slice0/Obligations.lean ====
section
/-! DEFINITION. The statements for the provers. Rule numbers are those of spec/. A next state written as a record update of `s` is its
own frame: every field not named, special registers, parameters and the words still presented among them, is as in `s`. -/

open Sys2Proof Sys2Proof.Machine

/-! ### Reset, operand assembly, reserved words -/

/-- R250: RESET puts every register of all four units at its reset value and outputs nothing; the parameters and the words still
presented stay. -/
def Obligations.ResetPutsEveryRegisterAtItsResetValue : Prop :=
  ∀ (s : State) (d : Byte),
    decodeOp (opWord 0x0#4 d) s = .ok (.reset d) ∧
    ∃ t, exec (.reset d) s = .next t ∧
      t.rxState = .idle ∧ t.rxCount = 0 ∧ t.rxAcc = 0x00#8 ∧ (∀ a, t.rxBuf.read a = none) ∧
      t.ckAcc = 0x00#8 ∧
      t.encValue = s.cfg.rleV0 ∧ t.encCount = 0#8 ∧ t.encPos = 0 ∧
      t.decParity = false ∧
      t.out = [] ∧ t.cfg = s.cfg ∧ t.pending = s.pending

/-- R251, R252: in the power-on state of every instance each register holds the value RESET gives it (the table of R252), and a RESET
leads to that state. -/
def Obligations.PowerOnStateIsTheResetState : Prop :=
  ∀ c : Config,
    ((State.resetWith c).rxState = .idle ∧ RxState.idle.code = 0#3 ∧ (∀ a, (State.resetWith c).rxBuf.read a = none) ∧
      (State.resetWith c).rxCount = 0 ∧ (State.resetWith c).rxAcc = 0x00#8 ∧ (State.resetWith c).ckAcc = 0x00#8 ∧
      (State.resetWith c).encValue = c.rleV0 ∧ (State.resetWith c).encCount = 0#8 ∧ (State.resetWith c).encPos = 0 ∧
      (State.resetWith c).decParity = false) ∧
    ∀ (s : State) (d : Byte), s.cfg = c →
      exec (.reset d) s = .next { State.resetWith c with pending := s.pending }

/-- R71: `d` is the word's low byte as it stands, and RESET, CK_CLEAR and ENC_END ignore it. -/
def Obligations.DataByteIsPlainAndIgnoredWhereTheSpecSaysSo : Prop :=
  (∀ (op : BitVec 4) (d : Byte), opOf (opWord op d) = op ∧ dataOf (opWord op d) = d ∧
    (opWord op d).toNat = 256 * op.toNat + d.toNat) ∧
  ∀ (s : State) (d d' : Byte),
    step (s.present (opWord 0x0#4 d)) = step (s.present (opWord 0x0#4 d')) ∧
    step (s.present (opWord 0x2#4 d)) = step (s.present (opWord 0x2#4 d')) ∧
    step (s.present (opWord 0x5#4 d)) = step (s.present (opWord 0x5#4 d'))

/-- R72: a word with `op` in `0x7 .. 0xF` is refused by name in every state, and a run that presents one ends there. -/
def Obligations.ReservedWordsAreRefused : Prop :=
  (∀ (s : State) (w : OpWord) (ws : List OpWord), s.pending = w :: ws → 7 ≤ (opOf w).toNat →
    step s = .refused (.reservedOperation (opOf w) (dataOf w))) ∧
  (∀ (s : State) (w : OpWord) (ws vs : List OpWord), 7 ≤ (opOf w).toNat → runWords (vs ++ w :: ws) s = none) ∧
  (∀ (s : State) (d : Byte), exec (.reserved7 d) s = .refused (.reservedOperation 0x7#4 d)) ∧
  (∀ (s : State) (low : BitVec 3) (d : Byte),
    ∃ op : BitVec 4, op.toNat = 8 + low.toNat ∧ exec (.reserved8F low d) s = .refused (.reservedOperation op d))

/-! ### The receiver, case by case -/

/-- R125: a start marker in IDLE is buffered at index 0; in any other state `0x02` is no start marker. -/
def Obligations.StartMarkerOpensAFrame : Prop :=
  (∀ s : State, s.cfg.Valid → s.rxState = .idle →
    decodeOp 0x102#12 s = .ok .rxIdleStart ∧
    ∃ buf : Memory, (∀ a, buf.read a = if a = 0 then some 0x02#8 else s.rxBuf.read a) ∧
      exec .rxIdleStart s =
        .next { s with rxState := .lengthNext, rxBuf := buf, rxCount := 1, rxAcc := 0x02#8, out := [.result .pending] }) ∧
  ∀ s : State, s.rxState ≠ .idle → decodeOp 0x102#12 s ≠ .ok .rxIdleStart

/-- R126: any other byte in IDLE is NAKed, and nothing but the outputs changes. -/
def Obligations.OtherByteInIdleIsNaked : Prop :=
  ∀ (s : State) (d : Byte), s.rxState = .idle → d ≠ 0x02#8 →
    decodeOp (opWord 0x1#4 d) s = .ok (.rxIdleReject d) ∧
    exec (.rxIdleReject d) s = .next { s with out := [.reply 0x15#8, .result (.rejected .badStart)] }

/-- R128: a declared length `L >= 1` with `2 + L <= RX_BUF_CAP`, computed without 8-bit wrap-around, is buffered at index 1; a larger
one is not admitted. -/
def Obligations.AdmissibleLengthIsBuffered : Prop :=
  (∀ (s : State) (d : Byte), s.rxState = .lengthNext → 1 ≤ d.toNat → 2 + d.toNat ≤ s.cfg.rxBufCap →
    decodeOp (opWord 0x1#4 d) s = .ok (.rxLenAccept d) ∧
    ∃ buf : Memory, (∀ a, buf.read a = if a = 1 then some d else s.rxBuf.read a) ∧
      exec (.rxLenAccept d) s =
        .next { s with rxState := .dataNext, rxBuf := buf, rxCount := 2, rxAcc := s.rxAcc ^^^ d, out := [.result .pending] }) ∧
  ∀ (s : State) (d : Byte), s.rxState = .lengthNext → s.cfg.rxBufCap < 2 + d.toNat →
    decodeOp (opWord 0x1#4 d) s ≠ .ok (.rxLenAccept d)

/-- R129: a declared length of zero is rejected at the length byte. -/
def Obligations.ZeroLengthIsRejected : Prop :=
  ∀ s : State, s.rxState = .lengthNext →
    decodeOp 0x100#12 s = .ok .rxLenZero ∧
    ∃ t, exec .rxLenZero s = .next t ∧ rejectedFrom s t .zeroLength

/-- R130: a declared length with `2 + L > RX_BUF_CAP` is rejected at the length byte; never when the capacity is 257. The three cases of
LENGTH_NEXT cover every byte, each under its guard. -/
def Obligations.OversizeLengthIsRejected : Prop :=
  (∀ (s : State) (d : Byte), s.cfg.Valid → s.rxState = .lengthNext → s.cfg.rxBufCap < 2 + d.toNat →
    decodeOp (opWord 0x1#4 d) s = .ok (.rxLenOversize d) ∧
    ∃ t, exec (.rxLenOversize d) s = .next t ∧ rejectedFrom s t .oversize) ∧
  (∀ (s : State) (d : Byte), s.cfg.rxBufCap = 257 → decodeOp (opWord 0x1#4 d) s ≠ .ok (.rxLenOversize d)) ∧
  ∀ (s : State) (d : Byte), s.cfg.Valid → s.rxState = .lengthNext →
    (1 ≤ d.toNat ∧ 2 + d.toNat ≤ s.cfg.rxBufCap ∧ decodeOp (opWord 0x1#4 d) s = .ok (.rxLenAccept d)) ∨
    (d = 0x00#8 ∧ decodeOp (opWord 0x1#4 d) s = .ok .rxLenZero) ∨
    (1 ≤ d.toNat ∧ s.cfg.rxBufCap < 2 + d.toNat ∧ decodeOp (opWord 0x1#4 d) s = .ok (.rxLenOversize d))

/-- R132: a payload byte that is not the last is buffered at index `rx_count`, which lies in the buffer; there is none where `L = 1`.
The premise `s.Inv` is the invariant of `EveryStepKeepsTheInvariant`. -/
def Obligations.PayloadByteIsBuffered : Prop :=
  (∀ (s : State) (d L : Byte), s.Inv → s.rxState = .dataNext → s.rxBuf.read 1 = some L → s.rxCount + 1 < 2 + L.toNat →
    decodeOp (opWord 0x1#4 d) s = .ok (.rxDataMore d) ∧ s.rxCount < s.cfg.rxBufCap ∧
    ∃ buf : Memory, (∀ a, buf.read a = if a = s.rxCount then some d else s.rxBuf.read a) ∧
      exec (.rxDataMore d) s =
        .next { s with rxBuf := buf, rxCount := s.rxCount + 1, rxAcc := s.rxAcc ^^^ d, out := [.result .pending] }) ∧
  ∀ (s : State) (d : Byte), s.Inv → s.rxState = .dataNext → s.rxBuf.read 1 = some 1#8 →
    decodeOp (opWord 0x1#4 d) s ≠ .ok (.rxDataMore d)

/-- R133: the last payload byte is buffered and the checksum is awaited; the count is then `2 + L`. -/
def Obligations.LastPayloadByteIsBuffered : Prop :=
  (∀ (s : State) (d L : Byte), s.Inv → s.rxState = .dataNext → s.rxBuf.read 1 = some L → s.rxCount + 1 = 2 + L.toNat →
    decodeOp (opWord 0x1#4 d) s = .ok (.rxDataLast d) ∧ s.rxCount ≤ s.cfg.rxBufCap - 1 ∧
    ∃ buf : Memory, (∀ a, buf.read a = if a = s.rxCount then some d else s.rxBuf.read a) ∧
      exec (.rxDataLast d) s =
        .next { s with rxState := .checksumNext, rxBuf := buf, rxCount := 2 + L.toNat, rxAcc := s.rxAcc ^^^ d,
                       out := [.result .pending] }) ∧
  ∀ (s : State) (d : Byte), s.Inv → s.rxState = .dataNext →
    decodeOp (opWord 0x1#4 d) s = .ok (.rxDataMore d) ∨ decodeOp (opWord 0x1#4 d) s = .ok (.rxDataLast d)

/-- R135, R141: the checksum byte that equals the fold of the buffered bytes is not buffered; the end marker is awaited. -/
def Obligations.MatchingChecksumAwaitsTheEndMarker : Prop :=
  (∀ s : State, s.rxState = .checksumNext →
    decodeOp (opWord 0x1#4 s.rxAcc) s = .ok (.rxCkMatch s.rxAcc) ∧
    exec (.rxCkMatch s.rxAcc) s = .next { s with rxState := .etxNext, out := [.result .pending] }) ∧
  ∀ s : State, s.Inv → s.rxState = .checksumNext →
    ∃ (L : Byte) (bs : List Byte), s.rxBuf.read 1 = some L ∧ bs.length = 2 + L.toNat ∧
      (∀ a, s.rxBuf.read a = bs[a]?) ∧ s.rxAcc = foldXor bs

/-- R136: a checksum byte that differs is rejected and the frame discarded. -/
def Obligations.MismatchingChecksumIsRejected : Prop :=
  ∀ (s : State) (d : Byte), s.rxState = .checksumNext → d ≠ s.rxAcc →
    decodeOp (opWord 0x1#4 d) s = .ok (.rxCkMismatch d) ∧
    ∃ t, exec (.rxCkMismatch d) s = .next t ∧ rejectedFrom s t .badChecksum

/-- R138, R142, R152, R153: the end marker completes the frame: the dispatch calls of `classify()`, then the ACK, then the result; the
receiver is reset. A refresh dispatches one `Flush()`; a payload without a meaning is acknowledged with no dispatch. -/
def Obligations.EndMarkerAcceptsTheFrame : Prop :=
  (∀ s : State, s.Inv → s.rxState = .etxNext →
    decodeOp 0x103#12 s = .ok .rxEtxAccept ∧
    ∃ p buf, s.classify = .ok p ∧ (∀ a, Memory.read buf a = none) ∧
      exec .rxEtxAccept s =
        .next { s with rxState := .idle, rxCount := 0, rxAcc := 0x00#8, rxBuf := buf,
                       out := (dispatchCalls p).map .dispatch ++ [.reply 0x06#8, .result (.accepted p)] }) ∧
  dispatchCalls .refresh = [.flush] ∧
  ∀ (cmd len : Byte) (why : Why), dispatchCalls (.unrecognized cmd len why) = []

/-- R139: a wrong terminator, `0x02` among them, is consumed and rejected; the frame is discarded. -/
def Obligations.WrongTerminatorIsRejected : Prop :=
  ∀ (s : State) (d : Byte), s.rxState = .etxNext → d ≠ 0x03#8 →
    decodeOp (opWord 0x1#4 d) s = .ok (.rxEtxReject d) ∧
    ∃ t, exec (.rxEtxReject d) s = .next t ∧ rejectedFrom s t .badEtx

/-! ### Classification and dispatch -/

/-- R150: what `classify()` answers for the frame in the buffer, by command, declared length and row index. -/
def Obligations.ClassificationFollowsCommandLengthAndRow : Prop :=
  ∀ (s : State) (L cmd : Byte), s.Inv → s.rxState = .etxNext → s.rxBuf.read 1 = some L → s.rxBuf.read 2 = some cmd →
    (cmd = 0x00#8 → L.toNat < 2 + s.cfg.wb → s.classify = .ok (.unrecognized cmd L .rowShort)) ∧
    (cmd = 0x00#8 → 2 + s.cfg.wb ≤ L.toNat → ∃ r, s.rxBuf.read 3 = some r ∧
      (s.cfg.height ≤ r.toNat → s.classify = .ok (.unrecognized cmd L .rowOutOfRange)) ∧
      (r.toNat < s.cfg.height → ∃ bits : List Byte, bits.length = s.cfg.wb ∧
        (∀ j, j < s.cfg.wb → bits[j]? = s.rxBuf.read (4 + j)) ∧ s.classify = .ok (.row r bits))) ∧
    (cmd = 0x01#8 → s.classify = .ok .refresh) ∧
    (cmd ≠ 0x00#8 → cmd ≠ 0x01#8 → s.classify = .ok (.unrecognized cmd L .unknownCommand))

/-- R151 (with R84 and R54): a row's dispatch is exactly `WIDTH` calls in order of increasing `x`, pixel `x` from bit `7 - (x mod 8)` of byte `x / 8`. -/
def Obligations.RowPixelsAreMostSignificantBitFirst : Prop :=
  ∀ (c : Config) (r : Byte) (bits : List Byte), c.width % 8 = 0 → bits.length = c.wb →
    (dispatchCalls (.row r bits)).length = c.width ∧
    ∀ (x : Nat) (b : Byte), bits[x / 8]? = some b →
      (dispatchCalls (.row r bits))[x]? = some (.setPixel x r.toNat (b.getLsbD (7 - x % 8)))

/-- From R150 and R151: the command code `0x00` of a frame that waits for its end marker dispatches the classified payload, and nothing
but the outputs changes; what RX.ETX.ACCEPT dispatches is the same. (That the command code is an instruction by itself is log 6.) -/
def Obligations.RowCommandDispatches : Prop :=
  ∀ s : State, s.Inv → s.rxState = .etxNext → s.rxBuf.read 2 = some 0x00#8 →
    decodeCmd 0x00#8 = .frameCmdRow ∧
    ∃ p t, s.classify = .ok p ∧ p ≠ .refresh ∧
      exec .frameCmdRow s = .next { s with out := (dispatchCalls p).map .dispatch } ∧
      exec .rxEtxAccept s = .next t ∧ dispatchesOf t.out = dispatchCalls p

/-- From R150 and R152: the command code `0x01` dispatches one `Flush()`, whatever the declared length. (That the command code is an
instruction by itself is log 6.) -/
def Obligations.RefreshCommandFlushes : Prop :=
  ∀ s : State, s.Inv → s.rxState = .etxNext → s.rxBuf.read 2 = some 0x01#8 →
    decodeCmd 0x01#8 = .frameCmdRefresh ∧
    exec .frameCmdRefresh s = .next { s with out := [.dispatch .flush] } ∧
    ∃ t, exec .rxEtxAccept s = .next t ∧ t.out = [.dispatch .flush, .reply 0x06#8, .result (.accepted .refresh)]

/-- From R150, R153 and R85: any other command code dispatches nothing, and its frame is acknowledged all the same. (That the command code
is an instruction by itself is log 6.) -/
def Obligations.UndefinedCommandIsAcknowledgedWithoutDispatch : Prop :=
  ∀ (s : State) (L cmd : Byte), s.Inv → s.rxState = .etxNext → s.rxBuf.read 1 = some L → s.rxBuf.read 2 = some cmd →
    cmd ≠ 0x00#8 → cmd ≠ 0x01#8 →
    decodeCmd cmd = .frameCmdUndefined cmd ∧
    exec (.frameCmdUndefined cmd) s = .next { s with out := [] } ∧
    ∃ t, exec .rxEtxAccept s = .next t ∧
      t.out = [.reply 0x06#8, .result (.accepted (.unrecognized cmd L .unknownCommand))]

/-! ### Checksum -/

/-- R105. -/
def Obligations.ChecksumClear : Prop :=
  ∀ (s : State) (d : Byte), decodeOp (opWord 0x2#4 d) s = .ok (.ckClear d) ∧
    exec (.ckClear d) s = .next { s with ckAcc := 0x00#8, out := [] }

/-- R106. -/
def Obligations.ChecksumFold : Prop :=
  ∀ (s : State) (d : Byte), decodeOp (opWord 0x3#4 d) s = .ok (.ckFold d) ∧
    exec (.ckFold d) s = .next { s with ckAcc := s.ckAcc ^^^ d, out := [] } ∧
    (d = 0x00#8 → s.ckAcc ^^^ d = s.ckAcc) ∧ (d = s.ckAcc → s.ckAcc ^^^ d = 0x00#8) ∧ s.ckAcc ^^^ d ^^^ d = s.ckAcc

/-- R107: after RESET or CK.CLEAR the accumulator is the fold of the bytes of the CK.FOLDs since, whatever the other units do between. -/
def Obligations.ChecksumUnitFoldsTheBytesPresented : Prop :=
  (∀ (s t : State) (w : OpWord) (ws : List OpWord) (os : List (List OutEvent)),
    (opOf w = 0x0#4 ∨ opOf w = 0x2#4) → (∀ v ∈ ws, opOf v ≠ 0x0#4 ∧ opOf v ≠ 0x2#4) →
    runWords (w :: ws) s = some (t, os) →
    t.ckAcc = foldXor ((ws.filter fun v => opOf v == 0x3#4).map dataOf)) ∧
  ∀ (s : State) (w : OpWord) (bs : List Byte), (opOf w = 0x0#4 ∨ opOf w = 0x2#4) →
    ∃ t os, runWords (w :: ckFolds bs) s = some (t, os) ∧ t.ckAcc = foldXor bs

/-- R102: concatenation, order independence, self-cancellation. -/
def Obligations.ChecksumLaws : Prop :=
  (∀ s t : List Byte, foldXor (s ++ t) = foldXor s ^^^ foldXor t) ∧
  (∀ s p : List Byte, s.Perm p → foldXor p = foldXor s) ∧
  (∀ a : Byte, foldXor [a, a] = 0x00#8) ∧
  (∀ s : List Byte, foldXor (s ++ [foldXor s]) = 0x00#8)

/-- R103: one corrupted byte is always detected; several go undetected exactly when their error bytes fold to zero, so the same bits
flipped in two bytes, and a reordering, never are. -/
def Obligations.ChecksumErrorDetection : Prop :=
  (∀ (s : List Byte) (i : Nat) (e : Byte), i < s.length → e ≠ 0x00#8 →
    foldXor (s.modify i (· ^^^ e)) = foldXor s ^^^ e ∧ foldXor (s.modify i (· ^^^ e)) ≠ foldXor s) ∧
  (∀ s es : List Byte, es.length = s.length →
    (foldXor (List.zipWith (· ^^^ ·) s es) = foldXor s ↔ foldXor es = 0x00#8)) ∧
  (∀ (s : List Byte) (i j : Nat) (e : Byte), i < s.length → j < s.length → i ≠ j →
    foldXor ((s.modify i (· ^^^ e)).modify j (· ^^^ e)) = foldXor s) ∧
  (∀ s p : List Byte, s.Perm p → foldXor p = foldXor s)

/-! ### Run-length encoder and decoder -/

/-- R172, R171: a non-leading byte only moves the record position, whatever its value; there is none where `RECORD_BYTES = 1`. -/
def Obligations.NonLeadingByteOnlyMovesThePosition : Prop :=
  (∀ (s : State) (d : Byte), s.encPos ≠ 0 →
    decodeOp (opWord 0x4#4 d) s = .ok (.encTail d) ∧
    exec (.encTail d) s = .next { s with encPos := (s.encPos + 1) % s.cfg.recordBytes, out := [] }) ∧
  ∀ (s : State) (d : Byte), s.Inv → s.cfg.recordBytes = 1 → decodeOp (opWord 0x4#4 d) s ≠ .ok (.encTail d)

/-- R173: a leading byte equal to the run's value, below the cap, lengthens the run by one. -/
def Obligations.MatchingLeadingByteCounts : Prop :=
  ∀ s : State, s.encPos = 0 → s.encCount.toNat < 254 →
    decodeOp (opWord 0x4#4 s.encValue) s = .ok (.encMatch s.encValue) ∧
    ∃ n : Byte, n.toNat = s.encCount.toNat + 1 ∧
      exec (.encMatch s.encValue) s =
        .next { s with encCount := n, encPos := (s.encPos + 1) % s.cfg.recordBytes, out := [] }

/-- R174: at the cap the counts `254`, `0` are emitted and the real run goes on as length 1. -/
def Obligations.CappedRunIsSplit : Prop :=
  ∀ s : State, s.encPos = 0 → s.encCount = 254#8 →
    decodeOp (opWord 0x4#4 s.encValue) s = .ok (.encCap s.encValue) ∧
    exec (.encCap s.encValue) s =
      .next { s with encCount := 1#8, encPos := (s.encPos + 1) % s.cfg.recordBytes, out := [.count 0xFE#8, .count 0x00#8] }

/-- R175: a leading byte that differs ends the run: its count is emitted, and the new run starts at 1. -/
def Obligations.MismatchingLeadingByteEndsTheRun : Prop :=
  (∀ (s : State) (d : Byte), s.encPos = 0 → d ≠ s.encValue →
    decodeOp (opWord 0x4#4 d) s = .ok (.encMismatch d) ∧
    exec (.encMismatch d) s =
      .next { s with encValue := d, encCount := 1#8, encPos := (s.encPos + 1) % s.cfg.recordBytes,
                     out := [.count s.encCount] }) ∧
  ∀ s : State, s.Inv → s.encCount.toNat ≤ 254

/-- R176: the end of the stream emits the current count and the sentinel and re-arms the encoder. -/
def Obligations.EndOfStreamEmitsCountAndSentinel : Prop :=
  ∀ (s : State) (d : Byte),
    decodeOp (opWord 0x5#4 d) s = .ok (.encEnd d) ∧
    exec (.encEnd d) s =
      .next { s with encValue := s.cfg.rleV0, encCount := 0#8, encPos := 0, out := [.count s.encCount, .count 0xFF#8] }

/-- R181: a count emits `Run(v, d)`, `v` by parity, and toggles the parity, a zero count too. -/
def Obligations.RunCountEmitsARun : Prop :=
  ∀ (s : State) (d : Byte), d ≠ 0xFF#8 →
    decodeOp (opWord 0x6#4 d) s = .ok (.decRun d) ∧
    exec (.decRun d) s =
      .next { s with decParity := !s.decParity,
                     out := [.run (if s.decParity = false then s.cfg.rleV0 else s.cfg.rleV1) d.toNat] }

/-- R182: the sentinel emits `End` and re-arms the decoder. -/
def Obligations.SentinelEndsTheStream : Prop :=
  ∀ s : State, decodeOp 0x6FF#12 s = .ok .decEnd ∧
    exec .decEnd s = .next { s with decParity := false, out := [.streamEnd] }

/-! ### Decoding and steps -/

/-- From R12 and R73: a step takes the word presented first, and runs the instruction its decoder reads in the present state, at that state less the
word taken. -/
def Obligations.StepRunsTheDecodedInstruction : Prop :=
  ∀ (s : State) (w : OpWord) (ws : List OpWord) (i : Instr), s.pending = w :: ws → decodeOp w s = .ok i →
    step s = exec i { s with pending := ws }

/-- From R12 and R123: nothing presented, no register changes and nothing is output. (That the model's step then answers a next state with its
outputs cleared is log 2.) -/
def Obligations.NothingPresentedNothingChanges : Prop :=
  ∀ s : State, s.pending = [] → step s = .next { s with out := [] }

/-- Words written out from the opcode table decode to their rows' instructions, at the reset state of any instance and in receiver states. -/
def Obligations.SampleWordsDecode : Prop :=
  ∀ c : Config, c.Valid →
    decodeOp 0x0AB#12 (State.resetWith c) = .ok (.reset 0xAB#8) ∧
    decodeOp 0x102#12 (State.resetWith c) = .ok .rxIdleStart ∧
    decodeOp 0x155#12 (State.resetWith c) = .ok (.rxIdleReject 0x55#8) ∧
    decodeOp 0x103#12 { State.resetWith c with rxState := .etxNext } = .ok .rxEtxAccept ∧
    decodeOp 0x2AB#12 (State.resetWith c) = .ok (.ckClear 0xAB#8) ∧
    decodeOp 0x3A5#12 (State.resetWith c) = .ok (.ckFold 0xA5#8) ∧
    decodeOp 0x500#12 (State.resetWith c) = .ok (.encEnd 0x00#8) ∧
    decodeOp 0x602#12 (State.resetWith c) = .ok (.decRun 0x02#8) ∧
    decodeOp 0x6FF#12 (State.resetWith c) = .ok .decEnd ∧
    decodeOp 0x700#12 (State.resetWith c) = .ok (.reserved7 0x00#8) ∧
    decodeOp 0xF12#12 (State.resetWith c) = .ok (.reserved8F 7#3 0x12#8)

/-- R73: in every state the invariant admits, a non-reserved word selects exactly one case: its guard holds, its encoding is the word, it
is the one the decoder answers, and no other row's guard and encoding fit. -/
def Obligations.GuardsSelectExactlyOneCase : Prop :=
  ∀ (s : State) (w : OpWord), s.Inv → (opOf w).toNat < 7 →
    ∃ i, decodeOp w s = .ok i ∧ caseGuard i s ∧ encode i = .opw12 w ∧
      ∀ j, caseGuard j s → encode j = .opw12 w → j = i

/-- Decode and encode agree: in any valid instance, an instruction whose guard holds is what its encoding decodes to; and for every
well-formed instruction, with every operand, there is a state the invariant admits in which that is so. -/
def Obligations.DecodeInvertsEncode : Prop :=
  (∀ (s : State) (i : Instr), s.cfg.Valid → caseGuard i s → i.WellFormed ∧ decode (encode i) s = .ok i) ∧
  ∀ i : Instr, i.WellFormed → ∃ s : State, s.Inv ∧ caseGuard i s ∧ decode (encode i) s = .ok i

/-! ### Invariants and whole-machine rules -/

/-- The power-on state of every valid instance meets the invariant. -/
def Obligations.ResetStateMeetsTheInvariant : Prop :=
  ∀ c : Config, c.Valid → (State.resetWith c).Inv

/-- R30, with R27, R28, R33: the invariant of the present `rx_state`, the buffer's and the accumulator's shape and the encoder's ranges hold
again after every step; and a step that comes to ETX_NEXT has `rx_acc` equal to the checksum byte it received. -/
def Obligations.EveryStepKeepsTheInvariant : Prop :=
  (∀ s t : State, s.Inv → step s = .next t → t.Inv) ∧
  ∀ (s t : State) (w : OpWord), step (s.present w) = .next t → s.rxState ≠ .etxNext → t.rxState = .etxNext →
    t.rxAcc = dataOf w

/-- From R53, R72, R73 and R216: from a state the invariant admits no step faults, and a step is refused only where the word presented first
is reserved. -/
def Obligations.OnlyReservedWordsStopAStep : Prop :=
  ∀ s : State, s.Inv → s.safeStep

/-- From R53 and D30: a read of a buffer entry that holds no value is a fault. (The second fault, for an index past the end, is log 9.) -/
def Obligations.UnwrittenReadFaults : Prop :=
  ∀ (s : State) (i : Nat),
    (i < s.cfg.rxBufCap → s.rxBuf.read i = none → s.memRead i = .error (.unwrittenRead i)) ∧
    (s.cfg.rxBufCap ≤ i → s.memRead i = .error (.outsideBuffer i))

/-- The buffer keeps its canonical form in every step, reachable or not. -/
def Obligations.EveryStepKeepsTheBufferCanonical : Prop :=
  ∀ s t : State, s.rxBuf.wf → step s = .next t → t.rxBuf.wf

/-- R52: a step that changes a buffer entry either leaves the whole buffer empty, or is an RX_FEED step that wrote its byte at index
`rx_count`, below the capacity: index 0 in IDLE, 1 in LENGTH_NEXT, `2 .. 2 + L - 1` in DATA_NEXT. -/
def Obligations.BufferIsWrittenOnlyAtRxCount : Prop :=
  ∀ (s t : State) (a : Nat), s.Inv → step s = .next t → t.rxBuf.read a ≠ s.rxBuf.read a →
    (∀ b, t.rxBuf.read b = none) ∨
    ∃ w ws, s.pending = w :: ws ∧ opOf w = 0x1#4 ∧ a = s.rxCount ∧ a < s.cfg.rxBufCap ∧
      t.rxBuf.read a = some (dataOf w) ∧
      (s.rxState = .idle ∧ a = 0 ∨ s.rxState = .lengthNext ∧ a = 1 ∨
        s.rxState = .dataNext ∧ ∃ L, s.rxBuf.read 1 = some L ∧ 2 ≤ a ∧ a ≤ 2 + L.toNat - 1)

/-- R36, R86: an instruction replies NAK exactly if it is a rejecting case, ACK exactly if it is the accepting case, and nothing
otherwise; so never another byte and never two. -/
def Obligations.RepliesAreAckOrNakAtMostOnce : Prop :=
  ∀ (i : Instr) (s t : State), exec i s = .next t →
    repliesOf t.out = if rejecting i then [0x15#8] else if i = .rxEtxAccept then [0x06#8] else []

/-- From R37 and R120: a step of an RX_FEED word gives exactly one result, a step of any other word none. -/
def Obligations.EveryFeedGivesOneResult : Prop :=
  ∀ (s t : State) (w : OpWord), step (s.present w) = .next t →
    (resultsOf t.out).length = if opOf w = 0x1#4 then 1 else 0

/-- From R121 and R212: after a step that replied, the receiver is idle with an empty buffer. -/
def Obligations.EveryReplyLeavesTheReceiverReset : Prop :=
  ∀ s t : State, s.Inv → step s = .next t → repliesOf t.out ≠ [] →
    t.rxState = .idle ∧ t.rxCount = 0 ∧ t.rxAcc = 0x00#8 ∧ ∀ a, t.rxBuf.read a = none

/-- R38: display calls are only output by the accepting step, and every pixel lies on the display. -/
def Obligations.DisplayCallsStayOnTheDisplay : Prop :=
  ∀ (s t : State) (c : DisplayCall), s.Inv → step s = .next t → c ∈ dispatchesOf t.out →
    (s.rxState = .etxNext ∧ ∃ ws, s.pending = 0x103#12 :: ws) ∧
    ∀ (x y : Nat) (level : Bool), c = .setPixel x y level → x < s.cfg.width ∧ y < s.cfg.height

/-- R23: no operation writes a parameter. -/
def Obligations.ParametersNeverChange : Prop :=
  ∀ s t : State, step s = .next t → t.cfg = s.cfg

/-- R24: a step changes no register of a unit it does not concern, and outputs nothing of that unit. -/
def Obligations.StepTouchesOnlyTheUnitItConcerns : Prop :=
  ∀ (s t : State) (w : OpWord) (u : BlockUnit), step (s.present w) = .next t → concerns u w = false →
    t.view u = s.view u ∧ t.out.filter (emittedBy u) = []

/-- From R24 and R222: any interleaving gives each unit the registers and the outputs it would have, had its own operations been presented alone. -/
def Obligations.UnitsRunIndependently : Prop :=
  ∀ (s t : State) (ws : List OpWord) (os : List (List OutEvent)) (u : BlockUnit), runWords ws s = some (t, os) →
    ∃ t' os', runWords (ws.filter (concerns u)) s = some (t', os') ∧ t'.view u = t.view u ∧
      os'.flatten.filter (emittedBy u) = os.flatten.filter (emittedBy u)

/-! ### Whole frames -/

/-- R155: a conforming frame that fits is accepted: `Pending` with no reply on every byte but the last, then the dispatch of the
original payload, the ACK and the result; the block is left as it was. The payload of a row frame is its row, with the pixels R155
gives; that of the refresh frame is the refresh. -/
def Obligations.ConformingFrameIsAccepted : Prop :=
  (∀ (c : Config) (r : Byte) (bits : List Byte), c.width % 8 = 0 → bits.length = c.wb → r.toNat < c.height →
    payloadOf c 0x00#8 (r :: bits) = .row r bits ∧
    ∀ x, x < c.width → ∃ b, bits[x / 8]? = some b ∧
      (dispatchCalls (.row r bits))[x]? = some (.setPixel x r.toNat (b.getLsbD (7 - x % 8)))) ∧
  (∀ c : Config, payloadOf c 0x01#8 [] = .refresh ∧ dispatchCalls .refresh = [.flush]) ∧
  ∀ (s : State) (cmd : Byte) (data : List Byte), s.Inv → s.rxState = .idle → data.length + 3 ≤ s.cfg.rxBufCap →
    runWords (feeds (frameRaw cmd data)) s =
      some ({ s with out := (dispatchCalls (payloadOf s.cfg cmd data)).map .dispatch ++
                              [.reply 0x06#8, .result (.accepted (payloadOf s.cfg cmd data))] },
        List.replicate (data.length + 4) [.result .pending] ++
          [(dispatchCalls (payloadOf s.cfg cmd data)).map .dispatch ++
            [.reply 0x06#8, .result (.accepted (payloadOf s.cfg cmd data))]])

/-- From R156, its first point: one corrupted command, data or checksum byte draws a NAK at the checksum step and a second one at the end marker,
and nothing is dispatched. -/
def Obligations.CorruptedPayloadOrChecksumByteIsNaked : Prop :=
  ∀ (s : State) (cmd : Byte) (data : List Byte) (i : Nat) (e : Byte), s.Inv → s.rxState = .idle →
    data.length + 3 ≤ s.cfg.rxBufCap → 2 ≤ i → i < data.length + 4 → e ≠ 0x00#8 →
    ∃ t, runWords (feeds ((frameRaw cmd data).modify i (· ^^^ e))) s =
      some (t, List.replicate (data.length + 3) [.result .pending] ++
        [[.reply 0x15#8, .result (.rejected .badChecksum)], [.reply 0x15#8, .result (.rejected .badStart)]]) ∧
      t = { s with out := [.reply 0x15#8, .result (.rejected .badStart)] }

/-- From R156, its second point: a corrupted end marker draws one NAK, at that byte, and nothing is dispatched. -/
def Obligations.CorruptedEndMarkerIsNaked : Prop :=
  ∀ (s : State) (cmd : Byte) (data : List Byte) (e : Byte), s.Inv → s.rxState = .idle →
    data.length + 3 ≤ s.cfg.rxBufCap → e ≠ 0x00#8 →
    runWords (feeds ((frameRaw cmd data).modify (data.length + 4) (· ^^^ e))) s =
      some ({ s with out := [.reply 0x15#8, .result (.rejected .badEtx)] },
        List.replicate (data.length + 4) [.result .pending] ++ [[.reply 0x15#8, .result (.rejected .badEtx)]])

/-- R261: a frame rejected by its checksum, end marker included, draws exactly two replies, both NAK, and leaves the block as it was. -/
def Obligations.BadChecksumDrawsTwoNaks : Prop :=
  ∀ (s : State) (L c : Byte) (ps : List Byte), s.Inv → s.rxState = .idle → ps.length = L.toNat → 1 ≤ L.toNat →
    2 + L.toNat ≤ s.cfg.rxBufCap → c ≠ foldXor (0x02#8 :: L :: ps) →
    ∃ os, runWords (feeds (0x02#8 :: L :: ps ++ [c, 0x03#8])) s =
        some ({ s with out := [.reply 0x15#8, .result (.rejected .badStart)] }, os) ∧
      repliesOf os.flatten = [0x15#8, 0x15#8]

/-- R158: every fed byte takes a step; from any other state than IDLE, whatever bytes follow, the receiver is back in IDLE with a reply
within R158's bounds; and without further bytes (and no RESET) it stays where it is. -/
def Obligations.ReceiverReturnsToIdleWithinTheBound : Prop :=
  (∀ (s : State) (d : Byte), s.Inv → ∃ t, step (s.present (opWord 0x1#4 d)) = .next t) ∧
  (∀ (s : State) (ds : List Byte), s.Inv → s.rxState ≠ .idle → ds.length = s.returnBound →
    ∃ k t os, 1 ≤ k ∧ k ≤ s.returnBound ∧ runWords (feeds (ds.take k)) s = some (t, os) ∧
      t.rxState = .idle ∧ repliesOf t.out ≠ []) ∧
  ∀ (s t : State) (ws : List OpWord) (os : List (List OutEvent)), (∀ w ∈ ws, concerns .receiver w = false) →
    runWords ws s = some (t, os) → t.view .receiver = s.view .receiver ∧ repliesOf os.flatten = []

/-! ### Whole run-length streams -/

/-- R178: for one stream of records with any leading bytes and any other bytes, the encoder's output is the count stream of R178: counts at
most 254, then one sentinel; and the encoder is ready for the next stream. -/
def Obligations.EncoderOutputIsTheCountStream : Prop :=
  ∀ (s : State) (recs : List (Byte × List Byte)), s.cfg.Valid →
    s.encValue = s.cfg.rleV0 → s.encCount = 0#8 → s.encPos = 0 →
    (∀ r ∈ recs, r.2.length + 1 = s.cfg.recordBytes) →
    ∃ t os cs, runWords (recs.flatMap (fun r => encRecord r.1 r.2) ++ [ScriptLine.encEnd.word]) s = some (t, os) ∧
      countsOf os.flatten = streamCounts s.cfg (recs.map Prod.fst) ∧
      countsOf os.flatten = cs ++ [0xFF#8] ∧ (∀ c ∈ cs, c.toNat ≤ 254) ∧
      t = { s with out := t.out }

/-- R186: decoding what the encoder emitted gives back the leading bytes, where all are `RLE_V0` or `RLE_V1`, followed by `End`; both
units are left in their reset state. -/
def Obligations.RunLengthRoundTrip : Prop :=
  ∀ (s : State) (recs : List (Byte × List Byte)), s.cfg.Valid →
    s.encValue = s.cfg.rleV0 → s.encCount = 0#8 → s.encPos = 0 → s.decParity = false →
    (∀ r ∈ recs, r.2.length + 1 = s.cfg.recordBytes ∧ (r.1 = s.cfg.rleV0 ∨ r.1 = s.cfg.rleV1)) →
    ∃ t os u ps es, runWords (recs.flatMap (fun r => encRecord r.1 r.2) ++ [ScriptLine.encEnd.word]) s = some (t, os) ∧
      runWords (decCounts (countsOf os.flatten)) t = some (u, ps) ∧
      ps.flatten = es ++ [.streamEnd] ∧ OutEvent.streamEnd ∉ es ∧
      byteView ps.flatten = recs.map Prod.fst ∧
      u = { s with out := u.out }

/-- R90: the bytes of a record after its leading byte have no effect at all: two streams with the same leading bytes give the same
state and the same outputs. -/
def Obligations.NonLeadingBytesHaveNoEffect : Prop :=
  ∀ (s : State) (recs recs' : List (Byte × List Byte)), s.cfg.Valid → s.encPos = 0 →
    (∀ r ∈ recs, r.2.length + 1 = s.cfg.recordBytes) → (∀ r ∈ recs', r.2.length + 1 = s.cfg.recordBytes) →
    recs.map Prod.fst = recs'.map Prod.fst →
    runWords (recs.flatMap fun r => encRecord r.1 r.2) s = runWords (recs'.flatMap fun r => encRecord r.1 r.2) s

/-! ### The host's contract -/

/-- R235: on NAK the host sends the same frame again while attempts remain, and reports a fatal end when they are exhausted; a peer that
always NAKs sees the frame exactly `A` times, and no further frame is sent. -/
def Obligations.AlwaysNakedFrameIsSentExactlyATimes : Prop :=
  (∀ (σ : Type) (answer : List Byte → σ → σ × List Byte) (frame rest : List Byte) (n : Nat) (l : LinkSide σ),
    l.queue ++ (answer frame l.peer).2 = 0x15#8 :: rest →
    (1 ≤ n → sendAndAwait answer frame (n + 1) l =
      sendAndAwait answer frame n ⟨(answer frame l.peer).1, rest, l.frames + 1⟩) ∧
    (n = 0 → sendAndAwait answer frame (n + 1) l = (.fatalExhausted, ⟨(answer frame l.peer).1, rest, l.frames + 1⟩))) ∧
  ∀ (σ : Type) (answer : List Byte → σ → σ × List Byte) (frame : List Byte) (later : List (List Byte)) (A : Nat)
    (l : LinkSide σ), 1 ≤ A → (∀ x, (answer frame x).2 = [0x15#8]) → l.queue = [] →
    (sendAll answer A (frame :: later) l).1 = .fatalExhausted ∧
    (sendAll answer A (frame :: later) l).2.frames = l.frames + A
end

