-- ==== Sys2Proof/Laws/Memory.lean ====
section
/-! SUPPORT. The laws of the receive buffer: a read after a write, what a write leaves alone, the canonical form, and the shape of a
buffer that holds its first `n` entries. -/

namespace Sys2Proof.Machine

@[simp] theorem Memory.read_nil (a : Nat) : Memory.read [] a = none := rfl

theorem Memory.read_cons (k : Nat) (v : Byte) (m : Memory) (a : Nat) :
    Memory.read ((k, v) :: m) a = if k = a then some v else Memory.read m a := rfl

theorem Memory.read_write (m : Memory) (a b : Nat) (v : Byte) :
    (m.write a v).read b = if b = a then some v else m.read b := by
  induction m with
  | nil => simp only [Memory.write, Memory.read_cons, Memory.read_nil]; grind
  | cons kv m ih =>
    obtain ⟨k, w⟩ := kv
    simp only [Memory.write]
    split
    · simp only [Memory.read_cons]; grind
    · split
      · simp only [Memory.read_cons]; grind
      · simp only [Memory.read_cons, ih]; grind

@[simp] theorem Memory.read_write_self (m : Memory) (a : Nat) (v : Byte) : (m.write a v).read a = some v := by
  simp [Memory.read_write]

theorem Memory.read_write_ne (m : Memory) {a b : Nat} (h : b ≠ a) (v : Byte) : (m.write a v).read b = m.read b := by
  simp [Memory.read_write, h]

theorem Memory.mem_write {m : Memory} {a : Nat} {v : Byte} {c : Host.Cell} (h : c ∈ m.write a v) : c.1 = a ∨ c ∈ m := by
  induction m with
  | nil => simp_all [Memory.write]
  | cons kv m ih =>
    obtain ⟨k, w⟩ := kv
    simp only [Memory.write] at h
    split at h
    · rcases List.mem_cons.1 h with rfl | h
      · exact .inl rfl
      · exact .inr h
    · split at h
      · rcases List.mem_cons.1 h with rfl | h
        · exact .inl rfl
        · exact .inr (List.mem_cons_of_mem _ h)
      · rcases List.mem_cons.1 h with rfl | h
        · exact .inr (List.mem_cons_self ..)
        · exact (ih h).imp id (List.mem_cons_of_mem _)

theorem Memory.wf_nil : Memory.wf [] := List.Pairwise.nil

/-- Every write keeps the canonical form. -/
theorem Memory.wf_write {m : Memory} (h : m.wf) (a : Nat) (v : Byte) : (m.write a v).wf := by
  induction m with
  | nil => simp [Memory.write, Memory.wf]
  | cons kv m ih =>
    obtain ⟨k, w⟩ := kv
    obtain ⟨hk, hm⟩ := List.pairwise_cons.1 h
    simp only [Memory.write]
    split
    · next hlt =>
      refine List.pairwise_cons.2 ⟨fun c hc => ?_, h⟩
      rcases List.mem_cons.1 hc with rfl | hc
      · exact hlt
      · exact Nat.lt_trans hlt (hk c hc)
    · split
      · next heq =>
        subst heq
        exact List.pairwise_cons.2 ⟨hk, hm⟩
      · next hnl hne =>
        refine List.pairwise_cons.2 ⟨fun c hc => ?_, ih hm⟩
        rcases Memory.mem_write hc with hca | hc
        · show k < c.1
          omega
        · exact hk c hc

/-- The entries of a buffer laid out from index `i`. -/
theorem Memory.read_ofBytes (bs : List Byte) (i a : Nat) :
    (Memory.ofBytes i bs).read a = if i ≤ a then bs[a - i]? else none := by
  induction bs generalizing i with
  | nil => simp [Memory.ofBytes]
  | cons b bs ih =>
    simp only [Memory.ofBytes, Memory.read_cons, ih]
    rcases Nat.lt_trichotomy i a with h | h | h
    · obtain ⟨d, rfl⟩ := Nat.exists_eq_add_of_lt h
      have : i + d + 1 - i = (i + d + 1 - (i + 1)) + 1 := by omega
      rw [if_neg (by omega), if_pos (by omega), if_pos (by omega), this, List.getElem?_cons_succ]
    · subst h; simp
    · rw [if_neg (by omega), if_neg (by omega), if_neg (by omega)]

@[simp] theorem Memory.map_fst_ofBytes (bs : List Byte) (i : Nat) :
    (Memory.ofBytes i bs).map Prod.fst = List.range' i bs.length := by
  induction bs generalizing i with
  | nil => rfl
  | cons b bs ih => simp [Memory.ofBytes, ih, List.range'_succ]

@[simp] theorem Memory.map_snd_ofBytes (bs : List Byte) (i : Nat) : (Memory.ofBytes i bs).map Prod.snd = bs := by
  induction bs generalizing i with
  | nil => rfl
  | cons b bs ih => simp [Memory.ofBytes, ih]

/-- A buffer whose listed indices run from `i` is the layout of its bytes. -/
theorem Memory.eq_ofBytes {m : Memory} {i n : Nat} (h : m.map Prod.fst = List.range' i n) :
    m = Memory.ofBytes i (m.map Prod.snd) := by
  induction m generalizing i n with
  | nil => rfl
  | cons kv m ih =>
    obtain ⟨k, v⟩ := kv
    cases n with
    | zero => simp at h
    | succ n =>
      simp only [List.map_cons, List.range'_succ, List.cons.injEq] at h
      obtain ⟨rfl, h⟩ := h
      simp only [List.map_cons, Memory.ofBytes]
      rw [← ih h]

/-- Writing at the first free index appends the byte. -/
theorem Memory.write_ofBytes_end (bs : List Byte) (i : Nat) (v : Byte) :
    (Memory.ofBytes i bs).write (i + bs.length) v = Memory.ofBytes i (bs ++ [v]) := by
  induction bs generalizing i with
  | nil => rfl
  | cons b bs ih =>
    have := ih (i + 1)
    simp only [Memory.ofBytes, Memory.write, List.length_cons, List.cons_append]
    rw [if_neg (by omega), if_neg (by omega), show i + (bs.length + 1) = i + 1 + bs.length by omega, this]

end Sys2Proof.Machine
end

