-- ==== Sys2Proof/Laws/State.lean ====
section
/-! SUPPORT. One lemma per field of State and named update: what the update leaves in the field. All by rfl. -/

namespace Sys2Proof.Machine
variable (s : State)

/-! ### `State.emit` -/

@[simp] theorem emit_cfg (es : List OutEvent) : (s.emit es).cfg = s.cfg := rfl
@[simp] theorem emit_rxState (es : List OutEvent) : (s.emit es).rxState = s.rxState := rfl
@[simp] theorem emit_rxBuf (es : List OutEvent) : (s.emit es).rxBuf = s.rxBuf := rfl
@[simp] theorem emit_rxCount (es : List OutEvent) : (s.emit es).rxCount = s.rxCount := rfl
@[simp] theorem emit_rxAcc (es : List OutEvent) : (s.emit es).rxAcc = s.rxAcc := rfl
@[simp] theorem emit_ckAcc (es : List OutEvent) : (s.emit es).ckAcc = s.ckAcc := rfl
@[simp] theorem emit_encValue (es : List OutEvent) : (s.emit es).encValue = s.encValue := rfl
@[simp] theorem emit_encCount (es : List OutEvent) : (s.emit es).encCount = s.encCount := rfl
@[simp] theorem emit_encPos (es : List OutEvent) : (s.emit es).encPos = s.encPos := rfl
@[simp] theorem emit_decParity (es : List OutEvent) : (s.emit es).decParity = s.decParity := rfl
@[simp] theorem emit_pending (es : List OutEvent) : (s.emit es).pending = s.pending := rfl
@[simp] theorem emit_out (es : List OutEvent) : (s.emit es).out = es := rfl

/-! ### `State.setPending` -/

@[simp] theorem setPending_cfg (ws : List OpWord) : (s.setPending ws).cfg = s.cfg := rfl
@[simp] theorem setPending_rxState (ws : List OpWord) : (s.setPending ws).rxState = s.rxState := rfl
@[simp] theorem setPending_rxBuf (ws : List OpWord) : (s.setPending ws).rxBuf = s.rxBuf := rfl
@[simp] theorem setPending_rxCount (ws : List OpWord) : (s.setPending ws).rxCount = s.rxCount := rfl
@[simp] theorem setPending_rxAcc (ws : List OpWord) : (s.setPending ws).rxAcc = s.rxAcc := rfl
@[simp] theorem setPending_ckAcc (ws : List OpWord) : (s.setPending ws).ckAcc = s.ckAcc := rfl
@[simp] theorem setPending_encValue (ws : List OpWord) : (s.setPending ws).encValue = s.encValue := rfl
@[simp] theorem setPending_encCount (ws : List OpWord) : (s.setPending ws).encCount = s.encCount := rfl
@[simp] theorem setPending_encPos (ws : List OpWord) : (s.setPending ws).encPos = s.encPos := rfl
@[simp] theorem setPending_decParity (ws : List OpWord) : (s.setPending ws).decParity = s.decParity := rfl
@[simp] theorem setPending_pending (ws : List OpWord) : (s.setPending ws).pending = ws := rfl
@[simp] theorem setPending_out (ws : List OpWord) : (s.setPending ws).out = s.out := rfl

/-! ### `State.setReceiver` -/

@[simp] theorem setReceiver_cfg (st : RxState) (n : Nat) (acc : Byte) : (s.setReceiver st n acc).cfg = s.cfg := rfl
@[simp] theorem setReceiver_rxState (st : RxState) (n : Nat) (acc : Byte) : (s.setReceiver st n acc).rxState = st := rfl
@[simp] theorem setReceiver_rxBuf (st : RxState) (n : Nat) (acc : Byte) : (s.setReceiver st n acc).rxBuf = s.rxBuf := rfl
@[simp] theorem setReceiver_rxCount (st : RxState) (n : Nat) (acc : Byte) : (s.setReceiver st n acc).rxCount = n := rfl
@[simp] theorem setReceiver_rxAcc (st : RxState) (n : Nat) (acc : Byte) : (s.setReceiver st n acc).rxAcc = acc := rfl
@[simp] theorem setReceiver_ckAcc (st : RxState) (n : Nat) (acc : Byte) : (s.setReceiver st n acc).ckAcc = s.ckAcc := rfl
@[simp] theorem setReceiver_encValue (st : RxState) (n : Nat) (acc : Byte) : (s.setReceiver st n acc).encValue = s.encValue := rfl
@[simp] theorem setReceiver_encCount (st : RxState) (n : Nat) (acc : Byte) : (s.setReceiver st n acc).encCount = s.encCount := rfl
@[simp] theorem setReceiver_encPos (st : RxState) (n : Nat) (acc : Byte) : (s.setReceiver st n acc).encPos = s.encPos := rfl
@[simp] theorem setReceiver_decParity (st : RxState) (n : Nat) (acc : Byte) : (s.setReceiver st n acc).decParity = s.decParity := rfl
@[simp] theorem setReceiver_pending (st : RxState) (n : Nat) (acc : Byte) : (s.setReceiver st n acc).pending = s.pending := rfl
@[simp] theorem setReceiver_out (st : RxState) (n : Nat) (acc : Byte) : (s.setReceiver st n acc).out = s.out := rfl

/-! ### `State.setBuf` -/

@[simp] theorem setBuf_cfg (m : Memory) : (s.setBuf m).cfg = s.cfg := rfl
@[simp] theorem setBuf_rxState (m : Memory) : (s.setBuf m).rxState = s.rxState := rfl
@[simp] theorem setBuf_rxBuf (m : Memory) : (s.setBuf m).rxBuf = m := rfl
@[simp] theorem setBuf_rxCount (m : Memory) : (s.setBuf m).rxCount = s.rxCount := rfl
@[simp] theorem setBuf_rxAcc (m : Memory) : (s.setBuf m).rxAcc = s.rxAcc := rfl
@[simp] theorem setBuf_ckAcc (m : Memory) : (s.setBuf m).ckAcc = s.ckAcc := rfl
@[simp] theorem setBuf_encValue (m : Memory) : (s.setBuf m).encValue = s.encValue := rfl
@[simp] theorem setBuf_encCount (m : Memory) : (s.setBuf m).encCount = s.encCount := rfl
@[simp] theorem setBuf_encPos (m : Memory) : (s.setBuf m).encPos = s.encPos := rfl
@[simp] theorem setBuf_decParity (m : Memory) : (s.setBuf m).decParity = s.decParity := rfl
@[simp] theorem setBuf_pending (m : Memory) : (s.setBuf m).pending = s.pending := rfl
@[simp] theorem setBuf_out (m : Memory) : (s.setBuf m).out = s.out := rfl

/-! ### `State.setCk` -/

@[simp] theorem setCk_cfg (b : Byte) : (s.setCk b).cfg = s.cfg := rfl
@[simp] theorem setCk_rxState (b : Byte) : (s.setCk b).rxState = s.rxState := rfl
@[simp] theorem setCk_rxBuf (b : Byte) : (s.setCk b).rxBuf = s.rxBuf := rfl
@[simp] theorem setCk_rxCount (b : Byte) : (s.setCk b).rxCount = s.rxCount := rfl
@[simp] theorem setCk_rxAcc (b : Byte) : (s.setCk b).rxAcc = s.rxAcc := rfl
@[simp] theorem setCk_ckAcc (b : Byte) : (s.setCk b).ckAcc = b := rfl
@[simp] theorem setCk_encValue (b : Byte) : (s.setCk b).encValue = s.encValue := rfl
@[simp] theorem setCk_encCount (b : Byte) : (s.setCk b).encCount = s.encCount := rfl
@[simp] theorem setCk_encPos (b : Byte) : (s.setCk b).encPos = s.encPos := rfl
@[simp] theorem setCk_decParity (b : Byte) : (s.setCk b).decParity = s.decParity := rfl
@[simp] theorem setCk_pending (b : Byte) : (s.setCk b).pending = s.pending := rfl
@[simp] theorem setCk_out (b : Byte) : (s.setCk b).out = s.out := rfl

/-! ### `State.setEnc` -/

@[simp] theorem setEnc_cfg (v c : Byte) (p : Nat) : (s.setEnc v c p).cfg = s.cfg := rfl
@[simp] theorem setEnc_rxState (v c : Byte) (p : Nat) : (s.setEnc v c p).rxState = s.rxState := rfl
@[simp] theorem setEnc_rxBuf (v c : Byte) (p : Nat) : (s.setEnc v c p).rxBuf = s.rxBuf := rfl
@[simp] theorem setEnc_rxCount (v c : Byte) (p : Nat) : (s.setEnc v c p).rxCount = s.rxCount := rfl
@[simp] theorem setEnc_rxAcc (v c : Byte) (p : Nat) : (s.setEnc v c p).rxAcc = s.rxAcc := rfl
@[simp] theorem setEnc_ckAcc (v c : Byte) (p : Nat) : (s.setEnc v c p).ckAcc = s.ckAcc := rfl
@[simp] theorem setEnc_encValue (v c : Byte) (p : Nat) : (s.setEnc v c p).encValue = v := rfl
@[simp] theorem setEnc_encCount (v c : Byte) (p : Nat) : (s.setEnc v c p).encCount = c := rfl
@[simp] theorem setEnc_encPos (v c : Byte) (p : Nat) : (s.setEnc v c p).encPos = p := rfl
@[simp] theorem setEnc_decParity (v c : Byte) (p : Nat) : (s.setEnc v c p).decParity = s.decParity := rfl
@[simp] theorem setEnc_pending (v c : Byte) (p : Nat) : (s.setEnc v c p).pending = s.pending := rfl
@[simp] theorem setEnc_out (v c : Byte) (p : Nat) : (s.setEnc v c p).out = s.out := rfl

/-! ### `State.setDec` -/

@[simp] theorem setDec_cfg (q : Bool) : (s.setDec q).cfg = s.cfg := rfl
@[simp] theorem setDec_rxState (q : Bool) : (s.setDec q).rxState = s.rxState := rfl
@[simp] theorem setDec_rxBuf (q : Bool) : (s.setDec q).rxBuf = s.rxBuf := rfl
@[simp] theorem setDec_rxCount (q : Bool) : (s.setDec q).rxCount = s.rxCount := rfl
@[simp] theorem setDec_rxAcc (q : Bool) : (s.setDec q).rxAcc = s.rxAcc := rfl
@[simp] theorem setDec_ckAcc (q : Bool) : (s.setDec q).ckAcc = s.ckAcc := rfl
@[simp] theorem setDec_encValue (q : Bool) : (s.setDec q).encValue = s.encValue := rfl
@[simp] theorem setDec_encCount (q : Bool) : (s.setDec q).encCount = s.encCount := rfl
@[simp] theorem setDec_encPos (q : Bool) : (s.setDec q).encPos = s.encPos := rfl
@[simp] theorem setDec_decParity (q : Bool) : (s.setDec q).decParity = q := rfl
@[simp] theorem setDec_pending (q : Bool) : (s.setDec q).pending = s.pending := rfl
@[simp] theorem setDec_out (q : Bool) : (s.setDec q).out = s.out := rfl

/-! ### `State.frameReset` -/

@[simp] theorem frameReset_cfg : (s.frameReset).cfg = s.cfg := rfl
@[simp] theorem frameReset_rxState : (s.frameReset).rxState = .idle := rfl
@[simp] theorem frameReset_rxBuf : (s.frameReset).rxBuf = [] := rfl
@[simp] theorem frameReset_rxCount : (s.frameReset).rxCount = 0 := rfl
@[simp] theorem frameReset_rxAcc : (s.frameReset).rxAcc = 0x00#8 := rfl
@[simp] theorem frameReset_ckAcc : (s.frameReset).ckAcc = s.ckAcc := rfl
@[simp] theorem frameReset_encValue : (s.frameReset).encValue = s.encValue := rfl
@[simp] theorem frameReset_encCount : (s.frameReset).encCount = s.encCount := rfl
@[simp] theorem frameReset_encPos : (s.frameReset).encPos = s.encPos := rfl
@[simp] theorem frameReset_decParity : (s.frameReset).decParity = s.decParity := rfl
@[simp] theorem frameReset_pending : (s.frameReset).pending = s.pending := rfl
@[simp] theorem frameReset_out : (s.frameReset).out = s.out := rfl

/-! ### `State.takeRejection` -/

@[simp] theorem takeRejection_cfg (c : Cause) : (s.takeRejection c).cfg = s.cfg := rfl
@[simp] theorem takeRejection_rxState (c : Cause) : (s.takeRejection c).rxState = s.rxState := rfl
@[simp] theorem takeRejection_rxBuf (c : Cause) : (s.takeRejection c).rxBuf = s.rxBuf := rfl
@[simp] theorem takeRejection_rxCount (c : Cause) : (s.takeRejection c).rxCount = s.rxCount := rfl
@[simp] theorem takeRejection_rxAcc (c : Cause) : (s.takeRejection c).rxAcc = s.rxAcc := rfl
@[simp] theorem takeRejection_ckAcc (c : Cause) : (s.takeRejection c).ckAcc = s.ckAcc := rfl
@[simp] theorem takeRejection_encValue (c : Cause) : (s.takeRejection c).encValue = s.encValue := rfl
@[simp] theorem takeRejection_encCount (c : Cause) : (s.takeRejection c).encCount = s.encCount := rfl
@[simp] theorem takeRejection_encPos (c : Cause) : (s.takeRejection c).encPos = s.encPos := rfl
@[simp] theorem takeRejection_decParity (c : Cause) : (s.takeRejection c).decParity = s.decParity := rfl
@[simp] theorem takeRejection_pending (c : Cause) : (s.takeRejection c).pending = s.pending := rfl
@[simp] theorem takeRejection_out (c : Cause) : (s.takeRejection c).out = [.reply nak, .result (.rejected c)] := rfl

/-! ### `State.rejectFrame` -/

@[simp] theorem rejectFrame_cfg (c : Cause) : (s.rejectFrame c).cfg = s.cfg := rfl
@[simp] theorem rejectFrame_rxState (c : Cause) : (s.rejectFrame c).rxState = .idle := rfl
@[simp] theorem rejectFrame_rxBuf (c : Cause) : (s.rejectFrame c).rxBuf = [] := rfl
@[simp] theorem rejectFrame_rxCount (c : Cause) : (s.rejectFrame c).rxCount = 0 := rfl
@[simp] theorem rejectFrame_rxAcc (c : Cause) : (s.rejectFrame c).rxAcc = 0x00#8 := rfl
@[simp] theorem rejectFrame_ckAcc (c : Cause) : (s.rejectFrame c).ckAcc = s.ckAcc := rfl
@[simp] theorem rejectFrame_encValue (c : Cause) : (s.rejectFrame c).encValue = s.encValue := rfl
@[simp] theorem rejectFrame_encCount (c : Cause) : (s.rejectFrame c).encCount = s.encCount := rfl
@[simp] theorem rejectFrame_encPos (c : Cause) : (s.rejectFrame c).encPos = s.encPos := rfl
@[simp] theorem rejectFrame_decParity (c : Cause) : (s.rejectFrame c).decParity = s.decParity := rfl
@[simp] theorem rejectFrame_pending (c : Cause) : (s.rejectFrame c).pending = s.pending := rfl
@[simp] theorem rejectFrame_out (c : Cause) : (s.rejectFrame c).out = [.reply nak, .result (.rejected c)] := rfl

/-! ### `State.present` -/

@[simp] theorem present_cfg (w : OpWord) : (s.present w).cfg = s.cfg := rfl
@[simp] theorem present_rxState (w : OpWord) : (s.present w).rxState = s.rxState := rfl
@[simp] theorem present_rxBuf (w : OpWord) : (s.present w).rxBuf = s.rxBuf := rfl
@[simp] theorem present_rxCount (w : OpWord) : (s.present w).rxCount = s.rxCount := rfl
@[simp] theorem present_rxAcc (w : OpWord) : (s.present w).rxAcc = s.rxAcc := rfl
@[simp] theorem present_ckAcc (w : OpWord) : (s.present w).ckAcc = s.ckAcc := rfl
@[simp] theorem present_encValue (w : OpWord) : (s.present w).encValue = s.encValue := rfl
@[simp] theorem present_encCount (w : OpWord) : (s.present w).encCount = s.encCount := rfl
@[simp] theorem present_encPos (w : OpWord) : (s.present w).encPos = s.encPos := rfl
@[simp] theorem present_decParity (w : OpWord) : (s.present w).decParity = s.decParity := rfl
@[simp] theorem present_pending (w : OpWord) : (s.present w).pending = w :: s.pending := rfl
@[simp] theorem present_out (w : OpWord) : (s.present w).out = s.out := rfl

/-! ### The reset state of an instance (R252) -/

@[simp] theorem resetWith_cfg (c : Config) : (State.resetWith c).cfg = c := rfl
@[simp] theorem resetWith_rxState (c : Config) : (State.resetWith c).rxState = .idle := rfl
@[simp] theorem resetWith_rxBuf (c : Config) : (State.resetWith c).rxBuf = [] := rfl
@[simp] theorem resetWith_rxCount (c : Config) : (State.resetWith c).rxCount = 0 := rfl
@[simp] theorem resetWith_rxAcc (c : Config) : (State.resetWith c).rxAcc = 0x00#8 := rfl
@[simp] theorem resetWith_ckAcc (c : Config) : (State.resetWith c).ckAcc = 0x00#8 := rfl
@[simp] theorem resetWith_encValue (c : Config) : (State.resetWith c).encValue = c.rleV0 := rfl
@[simp] theorem resetWith_encCount (c : Config) : (State.resetWith c).encCount = 0#8 := rfl
@[simp] theorem resetWith_encPos (c : Config) : (State.resetWith c).encPos = 0 := rfl
@[simp] theorem resetWith_decParity (c : Config) : (State.resetWith c).decParity = false := rfl
@[simp] theorem resetWith_pending (c : Config) : (State.resetWith c).pending = [] := rfl
@[simp] theorem resetWith_out (c : Config) : (State.resetWith c).out = [] := rfl

/-- Taking the presented word back leaves the state as it was. -/
@[simp] theorem present_setPending (w : OpWord) : (s.present w).setPending s.pending = s := rfl

end Sys2Proof.Machine
end

