-- ==== Sys2Proof/Laws/Ops.lean ====
section
/-! SUPPORT. For each shared operation, one lemma that says everything it can do; and when each goes on. -/

namespace Sys2Proof.Machine
variable {s t : State}

/-! ### Guards and reads -/

theorem whenGuard_pos {g : Prop} [Decidable g] (h : g) (k : Outcome) : whenGuard g k = k := if_pos h

theorem whenGuard_next {g : Prop} [Decidable g] {k : Outcome} (h : whenGuard g k = .next t) : g ∧ k = .next t := by
  unfold whenGuard at h
  split at h
  · exact ⟨‹_›, h⟩
  · cases h

theorem onRead_next {r : Except Fault Byte} {k : Byte → Outcome} (h : onRead r k = .next t) :
    ∃ b, r = .ok b ∧ k b = .next t := by
  cases r with
  | ok b => exact ⟨b, rfl, h⟩
  | error f => cases h

theorem onPayload_next {r : Except Fault Payload} {k : Payload → Outcome} (h : onPayload r k = .next t) :
    ∃ p, r = .ok p ∧ k p = .next t := by
  cases r with
  | ok p => exact ⟨p, rfl, h⟩
  | error f => cases h

/-- `MemRead` answers a byte exactly where the entry exists and holds it. -/
theorem memRead_ok_iff {i : Nat} {b : Byte} : s.memRead i = .ok b ↔ i < s.cfg.rxBufCap ∧ s.rxBuf.read i = some b := by
  unfold State.memRead
  split
  · split <;> simp_all
  · simp_all

theorem memRead_ok {i : Nat} {b : Byte} (hi : i < s.cfg.rxBufCap) (h : s.rxBuf.read i = some b) : s.memRead i = .ok b :=
  memRead_ok_iff.2 ⟨hi, h⟩

/-- A row of reads answers exactly the bytes the entries hold. -/
theorem memReads_ok {n i : Nat} {bs : List Byte} (hcap : i + n ≤ s.cfg.rxBufCap) (hlen : bs.length = n)
    (h : ∀ j, j < n → s.rxBuf.read (i + j) = bs[j]?) : s.memReads i n = .ok bs := by
  induction n generalizing i bs with
  | zero => simp only [List.length_eq_zero_iff] at hlen; subst hlen; rfl
  | succ n ih =>
    cases bs with
    | nil => cases hlen
    | cons b bs =>
      have h0 : s.memRead i = .ok b := memRead_ok (by omega) (by simpa using h 0 (by omega))
      have hr : s.memReads (i + 1) n = .ok bs :=
        ih (by omega) (by simpa using hlen) fun j hj => by
          have := h (j + 1) (by omega)
          simpa [Nat.add_assoc, Nat.add_comm 1 j] using this
      simp [State.memReads, h0, hr]

/-! ### The receiver's endings -/

theorem storeByte_ok {i : Nat} (b : Byte) (st : RxState) (n : Nat) (acc : Byte) (h : i < s.cfg.rxBufCap) :
    s.storeByte i b st n acc =
      .next (((s.setBuf (s.rxBuf.write i b)).setReceiver st n acc).emit [.result .pending]) := if_pos h

theorem storeByte_next {i : Nat} {b : Byte} {st : RxState} {n : Nat} {acc : Byte}
    (h : s.storeByte i b st n acc = .next t) :
    i < s.cfg.rxBufCap ∧
      t = ((s.setBuf (s.rxBuf.write i b)).setReceiver st n acc).emit [.result .pending] := by
  unfold State.storeByte at h
  split at h
  · exact ⟨‹_›, by cases h; rfl⟩
  · cases h

/-- Everything a payload byte can do (R132, R133). -/
theorem payloadByte_next {d : Byte} {cond : Nat → Nat → Prop} [∀ n L, Decidable (cond n L)] {st : RxState}
    (h : s.payloadByte d cond st = .next t) :
    s.rxState = .dataNext ∧ ∃ L, s.memRead 1 = .ok L ∧ cond s.rxCount L.toNat ∧ s.rxCount < s.cfg.rxBufCap ∧
      t = ((s.setBuf (s.rxBuf.write s.rxCount d)).setReceiver st (s.rxCount + 1) (s.rxAcc ^^^ d)).emit
        [.result .pending] := by
  obtain ⟨hst, h⟩ := whenGuard_next h
  obtain ⟨L, hL, h⟩ := onRead_next h
  obtain ⟨hc, h⟩ := whenGuard_next h
  obtain ⟨hcap, rfl⟩ := storeByte_next h
  exact ⟨hst, L, hL, hc, hcap, rfl⟩

theorem payloadByte_ok {d : Byte} {cond : Nat → Nat → Prop} [∀ n L, Decidable (cond n L)] {st : RxState} {L : Byte}
    (hst : s.rxState = .dataNext) (hL : s.memRead 1 = .ok L) (hc : cond s.rxCount L.toNat)
    (hcap : s.rxCount < s.cfg.rxBufCap) :
    s.payloadByte d cond st =
      .next (((s.setBuf (s.rxBuf.write s.rxCount d)).setReceiver st (s.rxCount + 1) (s.rxAcc ^^^ d)).emit
        [.result .pending]) := by
  simp [State.payloadByte, whenGuard, onRead, hst, hL, hc, storeByte_ok _ _ _ _ hcap]

/-- Everything the dispatch of a waiting frame can do (R150 to R153): only its calls are output. -/
theorem dispatchCommand_next {codes : Byte → Prop} [DecidablePred codes] (h : s.dispatchCommand codes = .next t) :
    s.rxState = .etxNext ∧ ∃ c p, s.memRead 2 = .ok c ∧ codes c ∧ s.classify = .ok p ∧ t = s.emit (dispatchEvents p) := by
  obtain ⟨hst, h⟩ := whenGuard_next h
  obtain ⟨c, hc, h⟩ := onRead_next h
  obtain ⟨hcc, h⟩ := whenGuard_next h
  obtain ⟨p, hp, h⟩ := onPayload_next h
  cases h
  exact ⟨hst, c, p, hc, hcc, hp, rfl⟩

theorem dispatchCommand_ok {codes : Byte → Prop} [DecidablePred codes] {c : Byte} {p : Payload}
    (hst : s.rxState = .etxNext) (hc : s.memRead 2 = .ok c) (hcc : codes c) (hp : s.classify = .ok p) :
    s.dispatchCommand codes = .next (s.emit (dispatchEvents p)) := by
  simp [State.dispatchCommand, whenGuard, onRead, onPayload, hst, hc, hcc, hp]

end Sys2Proof.Machine
end

