-- ==== Sys2Proof/Laws/Decode.lean ====
section
/-! SUPPORT. The fields of a composed operation word, the decoder at each operation code, and what a selected case says of its guard
(30_encoding.md R70 to R73). -/

namespace Sys2Proof
open Sys2Proof.Machine

@[simp] theorem opOf_opWord (op : BitVec 4) (d : Byte) : opOf (opWord op d) = op := by
  apply BitVec.eq_of_getLsbD_eq
  intro i hi
  simp only [opOf, opWord, BitVec.getLsbD_extractLsb', BitVec.getLsbD_append]
  have h : ¬ 8 + i < 8 := by omega
  simp [hi, h]

@[simp] theorem dataOf_opWord (op : BitVec 4) (d : Byte) : dataOf (opWord op d) = d := by
  apply BitVec.eq_of_getLsbD_eq
  intro i hi
  simp only [dataOf, opWord, BitVec.getLsbD_extractLsb', BitVec.getLsbD_append]
  simp [hi]

/-- A word is its operation code and its data byte (R70). -/
theorem opWord_fields (w : OpWord) : opWord (opOf w) (dataOf w) = w := by
  apply BitVec.eq_of_getLsbD_eq
  intro i hi
  simp only [opOf, dataOf, opWord, BitVec.getLsbD_extractLsb', BitVec.getLsbD_append]
  by_cases h : i < 8
  · simp [h]
  · have h4 : i - 8 < 4 := by omega
    have h8 : 8 + (i - 8) = i := by omega
    simp [h, h4, h8]

theorem opWord_inj {op op' : BitVec 4} {d d' : Byte} : opWord op d = opWord op' d' ↔ op = op' ∧ d = d' := by
  constructor
  · intro h
    exact ⟨by simpa using congrArg opOf h, by simpa using congrArg dataOf h⟩
  · rintro ⟨rfl, rfl⟩; rfl

/-! ### The decoder at each operation code -/

variable (s : State) (d : Byte)

@[simp] theorem decodeOp_reset : decodeOp (opWord 0x0#4 d) s = .ok (.reset d) := by simp [decodeOp]
@[simp] theorem decodeOp_feed : decodeOp (opWord 0x1#4 d) s = selectRx d s := by simp [decodeOp]
@[simp] theorem decodeOp_ckClear : decodeOp (opWord 0x2#4 d) s = .ok (.ckClear d) := by simp [decodeOp]
@[simp] theorem decodeOp_ckFold : decodeOp (opWord 0x3#4 d) s = .ok (.ckFold d) := by simp [decodeOp]
@[simp] theorem decodeOp_encByte : decodeOp (opWord 0x4#4 d) s = selectEnc d s := by simp [decodeOp]
@[simp] theorem decodeOp_encEnd : decodeOp (opWord 0x5#4 d) s = .ok (.encEnd d) := by simp [decodeOp]
@[simp] theorem decodeOp_decCount : decodeOp (opWord 0x6#4 d) s = .ok (selectDec d) := by simp [decodeOp]
@[simp] theorem decodeOp_reserved7 : decodeOp (opWord 0x7#4 d) s = .ok (.reserved7 d) := by simp [decodeOp]

theorem opcode_cases (op : BitVec 4) :
    op = 0x0#4 ∨ op = 0x1#4 ∨ op = 0x2#4 ∨ op = 0x3#4 ∨ op = 0x4#4 ∨ op = 0x5#4 ∨ op = 0x6#4 ∨ op = 0x7#4 ∨
      ∃ low : BitVec 3, op = 1#1 ++ low := by
  revert op; decide

@[simp] theorem decodeOp_reserved8F (low : BitVec 3) :
    decodeOp (opWord (1#1 ++ low) d) s = .ok (.reserved8F low d) := by
  simp only [decodeOp, opOf_opWord, dataOf_opWord]
  have h : ∀ l : BitVec 3, l = 0 ∨ l = 1 ∨ l = 2 ∨ l = 3 ∨ l = 4 ∨ l = 5 ∨ l = 6 ∨ l = 7 := by decide
  rcases h low with rfl | rfl | rfl | rfl | rfl | rfl | rfl | rfl <;> rfl

/-- What a word presented in a state can be decoded to, by operation code. -/
theorem decodeOp_cases (w : OpWord) :
    (∃ d, w = opWord 0x0#4 d ∧ decodeOp w s = .ok (.reset d)) ∨
    (∃ d, w = opWord 0x1#4 d ∧ decodeOp w s = selectRx d s) ∨
    (∃ d, w = opWord 0x2#4 d ∧ decodeOp w s = .ok (.ckClear d)) ∨
    (∃ d, w = opWord 0x3#4 d ∧ decodeOp w s = .ok (.ckFold d)) ∨
    (∃ d, w = opWord 0x4#4 d ∧ decodeOp w s = selectEnc d s) ∨
    (∃ d, w = opWord 0x5#4 d ∧ decodeOp w s = .ok (.encEnd d)) ∨
    (∃ d, w = opWord 0x6#4 d ∧ decodeOp w s = .ok (selectDec d)) ∨
    (∃ d, w = opWord 0x7#4 d ∧ decodeOp w s = .ok (.reserved7 d)) ∨
    (∃ low d, w = opWord (1#1 ++ low) d ∧ decodeOp w s = .ok (.reserved8F low d)) := by
  have hw := opWord_fields w
  rcases opcode_cases (opOf w) with h | h | h | h | h | h | h | h | ⟨low, h⟩ <;> rw [h] at hw
  · exact .inl ⟨_, hw.symm, by rw [← hw]; simp⟩
  · exact .inr (.inl ⟨_, hw.symm, by rw [← hw]; simp⟩)
  · exact .inr (.inr (.inl ⟨_, hw.symm, by rw [← hw]; simp⟩))
  · exact .inr (.inr (.inr (.inl ⟨_, hw.symm, by rw [← hw]; simp⟩)))
  · exact .inr (.inr (.inr (.inr (.inl ⟨_, hw.symm, by rw [← hw]; simp⟩))))
  · exact .inr (.inr (.inr (.inr (.inr (.inl ⟨_, hw.symm, by rw [← hw]; simp⟩)))))
  · exact .inr (.inr (.inr (.inr (.inr (.inr (.inl ⟨_, hw.symm, by rw [← hw]; simp⟩))))))
  · exact .inr (.inr (.inr (.inr (.inr (.inr (.inr (.inl ⟨_, hw.symm, by rw [← hw]; simp⟩)))))))
  · exact .inr (.inr (.inr (.inr (.inr (.inr (.inr (.inr ⟨low, _, hw.symm, by rw [← hw]; simp⟩)))))))

/-! ### The decoder does not read the words still presented -/

@[simp] theorem memRead_setPending (ws : List OpWord) (i : Nat) : (s.setPending ws).memRead i = s.memRead i := rfl

@[simp] theorem selectRx_setPending (ws : List OpWord) : selectRx d (s.setPending ws) = selectRx d s := rfl

@[simp] theorem selectEnc_setPending (ws : List OpWord) : selectEnc d (s.setPending ws) = selectEnc d s := rfl

@[simp] theorem decodeOp_setPending (w : OpWord) (ws : List OpWord) : decodeOp w (s.setPending ws) = decodeOp w s := rfl

/-! ### A selected case's guard holds -/

variable {s d}

theorem selectRx_guard {i : Instr} (h : selectRx d s = .ok i) : caseGuard i s ∧ encode i = .opw12 (opWord 0x1#4 d) := by
  unfold selectRx at h
  split at h
  · next hs =>
    cases h
    split
    · next hd => subst hd; exact ⟨⟨hs, rfl⟩, rfl⟩
    · next hd => exact ⟨⟨hs, hd⟩, rfl⟩
  · next hs =>
    cases h
    split
    · next hd => subst hd; exact ⟨⟨hs, rfl⟩, rfl⟩
    · next hd =>
      split
      · next hc =>
        refine ⟨⟨hs, ?_, hc⟩, rfl⟩
        rcases Nat.eq_zero_or_pos d.toNat with h0 | h0
        · exact absurd (BitVec.eq_of_toNat_eq (by simpa using h0)) hd
        · exact h0
      · next hc => exact ⟨⟨hs, by omega⟩, rfl⟩
  · next hs =>
    split at h
    · cases h
    · next L hL =>
      have hL' := (memRead_ok_iff.1 hL).2
      split at h
      · next hc => cases h; exact ⟨⟨hs, L, hL', hc⟩, rfl⟩
      · split at h
        · next hc => cases h; exact ⟨⟨hs, L, hL', hc⟩, rfl⟩
        · cases h
  · next hs =>
    cases h
    split
    · next hd => exact ⟨⟨hs, hd⟩, rfl⟩
    · next hd => exact ⟨⟨hs, hd⟩, rfl⟩
  · next hs =>
    cases h
    split
    · next hd => subst hd; exact ⟨⟨hs, rfl⟩, rfl⟩
    · next hd => exact ⟨⟨hs, hd⟩, rfl⟩

theorem selectEnc_guard {i : Instr} (h : selectEnc d s = .ok i) : caseGuard i s ∧ encode i = .opw12 (opWord 0x4#4 d) := by
  unfold selectEnc at h
  split at h
  · next hp => cases h; exact ⟨hp, rfl⟩
  · next hp =>
    have hp : s.encPos = 0 := by simpa using hp
    split at h
    · next hd => cases h; exact ⟨⟨hp, hd⟩, rfl⟩
    · next hd =>
      have hd : d = s.encValue := by simpa using hd
      split at h
      · next hc => cases h; exact ⟨⟨hp, hd, hc⟩, rfl⟩
      · split at h
        · next hc => cases h; exact ⟨⟨hp, hd, hc⟩, rfl⟩
        · cases h

theorem selectDec_guard (d : Byte) (s : State) :
    caseGuard (selectDec d) s ∧ encode (selectDec d) = .opw12 (opWord 0x6#4 d) := by
  unfold selectDec
  split
  · next h => subst h; exact ⟨rfl, rfl⟩
  · next h => exact ⟨h, rfl⟩

/-- The case the decoder selects has its guard satisfied and encodes back to the word (R73). -/
theorem decodeOp_guard {w : OpWord} {i : Instr} (h : decodeOp w s = .ok i) : caseGuard i s ∧ encode i = .opw12 w := by
  rcases decodeOp_cases s w with ⟨d, rfl, e⟩ | ⟨d, rfl, e⟩ | ⟨d, rfl, e⟩ | ⟨d, rfl, e⟩ | ⟨d, rfl, e⟩ | ⟨d, rfl, e⟩ |
    ⟨d, rfl, e⟩ | ⟨d, rfl, e⟩ | ⟨low, d, rfl, e⟩ <;> rw [e] at h
  · cases h; exact ⟨trivial, rfl⟩
  · exact selectRx_guard h
  · cases h; exact ⟨trivial, rfl⟩
  · cases h; exact ⟨trivial, rfl⟩
  · exact selectEnc_guard h
  · cases h; exact ⟨trivial, rfl⟩
  · cases h; exact selectDec_guard d s
  · cases h; exact ⟨trivial, rfl⟩
  · cases h; exact ⟨trivial, rfl⟩

end Sys2Proof
end

