-- ==== Sys2Proof/Laws/Exec.lean ====
section
/-! SUPPORT. One inversion lemma per meaning: if it answers a next state, its guard held and the next state is this one. -/

namespace Sys2Proof.Machine
variable {s t : State} {d : Byte}

theorem execReset_next (h : execReset d s = .next t) : t = (State.resetWith s.cfg).setPending s.pending := by
  cases h; rfl

theorem execRxIdleStart_next (h : execRxIdleStart s = .next t) :
    idleStartGuard stx s ∧ 0 < s.cfg.rxBufCap ∧
      t = ((s.setBuf (s.rxBuf.write 0 stx)).setReceiver .lengthNext 1 stx).emit [.result .pending] := by
  obtain ⟨hg, h⟩ := whenGuard_next h
  exact ⟨hg, storeByte_next h⟩

theorem execRxIdleReject_next (h : execRxIdleReject d s = .next t) :
    idleRejectGuard d s ∧ t = s.takeRejection .badStart := by
  obtain ⟨hg, h⟩ := whenGuard_next h; cases h; exact ⟨hg, rfl⟩

theorem execRxLenAccept_next (h : execRxLenAccept d s = .next t) :
    lenAcceptGuard d s ∧ 1 < s.cfg.rxBufCap ∧
      t = ((s.setBuf (s.rxBuf.write 1 d)).setReceiver .dataNext 2 (s.rxAcc ^^^ d)).emit [.result .pending] := by
  obtain ⟨hg, h⟩ := whenGuard_next h
  exact ⟨hg, storeByte_next h⟩

theorem execRxLenZero_next (h : execRxLenZero s = .next t) :
    lenZeroGuard 0x00#8 s ∧ t = s.rejectFrame .zeroLength := by
  obtain ⟨hg, h⟩ := whenGuard_next h; cases h; exact ⟨hg, rfl⟩

theorem execRxLenOversize_next (h : execRxLenOversize d s = .next t) :
    lenOversizeGuard d s ∧ t = s.rejectFrame .oversize := by
  obtain ⟨hg, h⟩ := whenGuard_next h; cases h; exact ⟨hg, rfl⟩

theorem execRxDataMore_next (h : execRxDataMore d s = .next t) :
    s.rxState = .dataNext ∧ ∃ L, s.memRead 1 = .ok L ∧ s.rxCount + 1 < 2 + L.toNat ∧ s.rxCount < s.cfg.rxBufCap ∧
      t = ((s.setBuf (s.rxBuf.write s.rxCount d)).setReceiver .dataNext (s.rxCount + 1) (s.rxAcc ^^^ d)).emit
        [.result .pending] := payloadByte_next h

theorem execRxDataLast_next (h : execRxDataLast d s = .next t) :
    s.rxState = .dataNext ∧ ∃ L, s.memRead 1 = .ok L ∧ s.rxCount + 1 = 2 + L.toNat ∧ s.rxCount < s.cfg.rxBufCap ∧
      t = ((s.setBuf (s.rxBuf.write s.rxCount d)).setReceiver .checksumNext (s.rxCount + 1) (s.rxAcc ^^^ d)).emit
        [.result .pending] := payloadByte_next h

theorem execRxCkMatch_next (h : execRxCkMatch d s = .next t) :
    ckMatchGuard d s ∧ t = (s.setReceiver .etxNext s.rxCount s.rxAcc).emit [.result .pending] := by
  obtain ⟨hg, h⟩ := whenGuard_next h; cases h; exact ⟨hg, rfl⟩

theorem execRxCkMismatch_next (h : execRxCkMismatch d s = .next t) :
    ckMismatchGuard d s ∧ t = s.rejectFrame .badChecksum := by
  obtain ⟨hg, h⟩ := whenGuard_next h; cases h; exact ⟨hg, rfl⟩

theorem execRxEtxAccept_next (h : execRxEtxAccept s = .next t) :
    etxAcceptGuard etx s ∧ ∃ p, s.classify = .ok p ∧
      t = s.frameReset.emit (dispatchEvents p ++ [.reply ack, .result (.accepted p)]) := by
  obtain ⟨hg, h⟩ := whenGuard_next h
  obtain ⟨p, hp, h⟩ := onPayload_next h
  cases h; exact ⟨hg, p, hp, rfl⟩

theorem execRxEtxReject_next (h : execRxEtxReject d s = .next t) :
    etxRejectGuard d s ∧ t = s.rejectFrame .badEtx := by
  obtain ⟨hg, h⟩ := whenGuard_next h; cases h; exact ⟨hg, rfl⟩

theorem execCkClear_next (h : execCkClear d s = .next t) : t = (s.setCk 0x00#8).emit [] := by cases h; rfl

theorem execCkFold_next (h : execCkFold d s = .next t) : t = (s.setCk (s.ckAcc ^^^ d)).emit [] := by cases h; rfl

theorem execEncTail_next (h : execEncTail d s = .next t) :
    encTailGuard s ∧ t = (s.setEnc s.encValue s.encCount (advancePos s)).emit [] := by
  obtain ⟨hg, h⟩ := whenGuard_next h; cases h; exact ⟨hg, rfl⟩

theorem execEncMatch_next (h : execEncMatch d s = .next t) :
    encMatchGuard d s ∧ t = (s.setEnc s.encValue (s.encCount + 1#8) (advancePos s)).emit [] := by
  obtain ⟨hg, h⟩ := whenGuard_next h; cases h; exact ⟨hg, rfl⟩

theorem execEncCap_next (h : execEncCap d s = .next t) :
    encCapGuard d s ∧ t = (s.setEnc s.encValue 1#8 (advancePos s)).emit [.count rleMaxRun, .count 0#8] := by
  obtain ⟨hg, h⟩ := whenGuard_next h; cases h; exact ⟨hg, rfl⟩

theorem execEncMismatch_next (h : execEncMismatch d s = .next t) :
    encMismatchGuard d s ∧ t = (s.setEnc d 1#8 (advancePos s)).emit [.count s.encCount] := by
  obtain ⟨hg, h⟩ := whenGuard_next h; cases h; exact ⟨hg, rfl⟩

theorem execEncEnd_next (h : execEncEnd d s = .next t) :
    t = (s.setEnc s.cfg.rleV0 0#8 0).emit [.count s.encCount, .count rleCap] := by cases h; rfl

theorem execDecRun_next (h : execDecRun d s = .next t) :
    decRunGuard d ∧ t = (s.setDec (!s.decParity)).emit [.run (runValue s.cfg s.decParity) d.toNat] := by
  obtain ⟨hg, h⟩ := whenGuard_next h; cases h; exact ⟨hg, rfl⟩

theorem execDecEnd_next (h : execDecEnd s = .next t) : t = (s.setDec false).emit [.streamEnd] := by cases h; rfl

theorem execFrameCmdRow_next (h : execFrameCmdRow s = .next t) :
    s.rxState = .etxNext ∧ ∃ c p, s.memRead 2 = .ok c ∧ c = cmdRow ∧ s.classify = .ok p ∧
      t = s.emit (dispatchEvents p) := dispatchCommand_next h

theorem execFrameCmdRefresh_next (h : execFrameCmdRefresh s = .next t) :
    s.rxState = .etxNext ∧ ∃ c p, s.memRead 2 = .ok c ∧ c = cmdRefresh ∧ s.classify = .ok p ∧
      t = s.emit (dispatchEvents p) := dispatchCommand_next h

theorem execFrameCmdUndefined_next {cmd : Byte} (h : execFrameCmdUndefined cmd s = .next t) :
    s.rxState = .etxNext ∧ ∃ c p, s.memRead 2 = .ok c ∧ (c = cmd ∧ c ≠ cmdRow ∧ c ≠ cmdRefresh) ∧ s.classify = .ok p ∧
      t = s.emit (dispatchEvents p) := dispatchCommand_next h

end Sys2Proof.Machine
end

