-- ==== Sys2Proof/Laws/Step.lean ====
section
/-! SUPPORT. What a step is: the word presented first, decoded in the present state and run (00_scope.md R12); and runs. -/

namespace Sys2Proof.Machine
variable {s t : State}

theorem step_nil (h : s.pending = []) : step s = .next (s.emit []) := by simp [step, State.nextWord, h, State.idleStep]

theorem step_cons {w : OpWord} {ws : List OpWord} (h : s.pending = w :: ws) :
    step s = match decodeOp w s with
      | .ok i => exec i (s.setPending ws)
      | .error e => stopOf e := by
  cases hd : decodeOp w s <;> simp [step, State.nextWord, h, hd]

/-- Everything a step that goes on can do: nothing is presented, or the selected case is run. -/
theorem step_next (h : step s = .next t) :
    (s.pending = [] ∧ t = s.emit []) ∨
    ∃ w ws i, s.pending = w :: ws ∧ decodeOp w s = .ok i ∧ exec i (s.setPending ws) = .next t := by
  cases hp : s.pending with
  | nil => rw [step_nil hp] at h; cases h; exact .inl ⟨rfl, rfl⟩
  | cons w ws =>
    rw [step_cons hp] at h
    cases hd : decodeOp w s with
    | ok i => rw [hd] at h; exact .inr ⟨w, ws, i, rfl, hd, h⟩
    | error e => rw [hd] at h; cases e <;> cases h

/-- A presented word is decoded in the state as it stands, and its case run with nothing of it left over. -/
theorem step_present (s : State) (w : OpWord) :
    step (s.present w) = match decodeOp w s with
      | .ok i => exec i s
      | .error e => stopOf e := rfl

theorem step_present_ok {w : OpWord} {i : Instr} (h : decodeOp w s = .ok i) : step (s.present w) = exec i s := by
  rw [step_present, h]

/-! ### Runs -/

theorem runWords_nil (s : State) : runWords [] s = some (s, []) := rfl

theorem runWords_cons {w : OpWord} {ws : List OpWord} (h : step (s.present w) = .next t) :
    runWords (w :: ws) s = (runWords ws t).map fun r => (r.1, t.out :: r.2) := by
  simp only [runWords, h]
  cases runWords ws t <;> rfl

/-- A run over two word lists is the run over the first, then over the second. -/
theorem runWords_append {ws vs : List OpWord} {u : State} {os ps : List (List OutEvent)}
    (h : runWords ws s = some (t, os)) (h' : runWords vs t = some (u, ps)) :
    runWords (ws ++ vs) s = some (u, os ++ ps) := by
  induction ws generalizing s os with
  | nil => cases h; exact h'
  | cons w ws ih =>
    simp only [runWords, List.cons_append] at h ⊢
    split at h
    · split at h
      · next y hy => cases h; simp only [ih hy]; rfl
      · cases h
    · cases h
    · cases h

end Sys2Proof.Machine
end

