-- ==== Sys2Proof/Laws/Cases.lean ====
section
/-! SUPPORT. Everything a step can do, said once: for a word of each operation, the cases of its rule with their guards and next states
(41_receiver.md R125 to R139, 42_rle_codec.md R172 to R182). Whole-machine rules go by cases on these. -/

namespace Sys2Proof.Machine
variable {s t : State} {d : Byte}

/-- What an RX_FEED step that goes on has done: one constructor per rule. -/
inductive FeedCase (d : Byte) (s t : State) : Prop
  | idleStart (hs : s.rxState = .idle) (hd : d = stx) (hc : 0 < s.cfg.rxBufCap)
      (ht : t = ((s.setBuf (s.rxBuf.write 0 stx)).setReceiver .lengthNext 1 stx).emit [.result .pending])
  | idleReject (hs : s.rxState = .idle) (hd : d ≠ stx) (ht : t = s.takeRejection .badStart)
  | lenAccept (hs : s.rxState = .lengthNext) (h1 : 1 ≤ d.toNat) (h2 : 2 + d.toNat ≤ s.cfg.rxBufCap)
      (ht : t = ((s.setBuf (s.rxBuf.write 1 d)).setReceiver .dataNext 2 (s.rxAcc ^^^ d)).emit [.result .pending])
  | lenZero (hs : s.rxState = .lengthNext) (hd : d = 0x00#8) (ht : t = s.rejectFrame .zeroLength)
  | lenOversize (hs : s.rxState = .lengthNext) (h2 : s.cfg.rxBufCap < 2 + d.toNat) (ht : t = s.rejectFrame .oversize)
  | dataMore (hs : s.rxState = .dataNext) (L : Byte) (hL : s.memRead 1 = .ok L) (hn : s.rxCount + 1 < 2 + L.toNat)
      (hc : s.rxCount < s.cfg.rxBufCap)
      (ht : t = ((s.setBuf (s.rxBuf.write s.rxCount d)).setReceiver .dataNext (s.rxCount + 1) (s.rxAcc ^^^ d)).emit
        [.result .pending])
  | dataLast (hs : s.rxState = .dataNext) (L : Byte) (hL : s.memRead 1 = .ok L) (hn : s.rxCount + 1 = 2 + L.toNat)
      (hc : s.rxCount < s.cfg.rxBufCap)
      (ht : t = ((s.setBuf (s.rxBuf.write s.rxCount d)).setReceiver .checksumNext (s.rxCount + 1) (s.rxAcc ^^^ d)).emit
        [.result .pending])
  | ckMatch (hs : s.rxState = .checksumNext) (hd : d = s.rxAcc)
      (ht : t = (s.setReceiver .etxNext s.rxCount s.rxAcc).emit [.result .pending])
  | ckMismatch (hs : s.rxState = .checksumNext) (hd : d ≠ s.rxAcc) (ht : t = s.rejectFrame .badChecksum)
  | etxAccept (hs : s.rxState = .etxNext) (hd : d = etx) (p : Payload) (hp : s.classify = .ok p)
      (ht : t = s.frameReset.emit (dispatchEvents p ++ [.reply ack, .result (.accepted p)]))
  | etxReject (hs : s.rxState = .etxNext) (hd : d ≠ etx) (ht : t = s.rejectFrame .badEtx)

/-- What an ENC_BYTE step that goes on has done. -/
inductive EncByteCase (d : Byte) (s t : State) : Prop
  | tail (hp : s.encPos ≠ 0) (ht : t = (s.setEnc s.encValue s.encCount (advancePos s)).emit [])
  | same (hp : s.encPos = 0) (hd : d = s.encValue) (hc : s.encCount < rleMaxRun)
      (ht : t = (s.setEnc s.encValue (s.encCount + 1#8) (advancePos s)).emit [])
  | cap (hp : s.encPos = 0) (hd : d = s.encValue) (hc : s.encCount = rleMaxRun)
      (ht : t = (s.setEnc s.encValue 1#8 (advancePos s)).emit [.count rleMaxRun, .count 0#8])
  | mismatch (hp : s.encPos = 0) (hd : d ≠ s.encValue)
      (ht : t = (s.setEnc d 1#8 (advancePos s)).emit [.count s.encCount])

/-- What a DEC_COUNT step has done. -/
inductive DecCountCase (d : Byte) (s t : State) : Prop
  | run (hd : d ≠ rleCap) (ht : t = (s.setDec (!s.decParity)).emit [.run (runValue s.cfg s.decParity) d.toNat])
  | streamEnd (hd : d = rleCap) (ht : t = (s.setDec false).emit [.streamEnd])

/-- What a step on the word `w` that goes on has done, by operation. -/
inductive WordCase (w : OpWord) (s t : State) : Prop
  | reset (d : Byte) (hw : w = opWord 0x0#4 d) (ht : t = (State.resetWith s.cfg).setPending s.pending)
  | feed (d : Byte) (hw : w = opWord 0x1#4 d) (h : FeedCase d s t)
  | ckClear (d : Byte) (hw : w = opWord 0x2#4 d) (ht : t = (s.setCk 0x00#8).emit [])
  | ckFold (d : Byte) (hw : w = opWord 0x3#4 d) (ht : t = (s.setCk (s.ckAcc ^^^ d)).emit [])
  | encByte (d : Byte) (hw : w = opWord 0x4#4 d) (h : EncByteCase d s t)
  | encEnd (d : Byte) (hw : w = opWord 0x5#4 d)
      (ht : t = (s.setEnc s.cfg.rleV0 0#8 0).emit [.count s.encCount, .count rleCap])
  | decCount (d : Byte) (hw : w = opWord 0x6#4 d) (h : DecCountCase d s t)

theorem feed_cases {i : Instr} (hi : selectRx d s = .ok i) (h : exec i s = .next t) : FeedCase d s t := by
  unfold selectRx at hi
  split at hi
  · cases hi
    split at h
    · next hd =>
      obtain ⟨hg, hc, ht⟩ := execRxIdleStart_next h
      exact .idleStart hg.1 hd hc ht
    · next hd => exact .idleReject ‹_› hd (execRxIdleReject_next h).2
  · cases hi
    split at h
    · next hd => exact .lenZero ‹_› hd (execRxLenZero_next h).2
    · split at h
      · next hc =>
        obtain ⟨hg, _, ht⟩ := execRxLenAccept_next h
        exact .lenAccept hg.1 hg.2.1 hg.2.2 ht
      · obtain ⟨hg, ht⟩ := execRxLenOversize_next h
        exact .lenOversize hg.1 hg.2 ht
  · split at hi
    · cases hi
    · split at hi
      · cases hi
        obtain ⟨hs, L, hL, hn, hc, ht⟩ := execRxDataMore_next h
        exact .dataMore hs L hL hn hc ht
      · split at hi
        · cases hi
          obtain ⟨hs, L, hL, hn, hc, ht⟩ := execRxDataLast_next h
          exact .dataLast hs L hL hn hc ht
        · cases hi
  · cases hi
    split at h
    · next hd => exact .ckMatch ‹_› hd (execRxCkMatch_next h).2
    · next hd => exact .ckMismatch ‹_› hd (execRxCkMismatch_next h).2
  · cases hi
    split at h
    · next hd =>
      obtain ⟨hg, p, hp, ht⟩ := execRxEtxAccept_next h
      exact .etxAccept hg.1 hd p hp ht
    · next hd => exact .etxReject ‹_› hd (execRxEtxReject_next h).2

theorem encByte_cases {i : Instr} (hi : selectEnc d s = .ok i) (h : exec i s = .next t) : EncByteCase d s t := by
  unfold selectEnc at hi
  split at hi
  · next hp => cases hi; exact .tail hp (execEncTail_next (d := d) h).2
  · split at hi
    · cases hi
      obtain ⟨hg, ht⟩ := execEncMismatch_next h
      exact .mismatch hg.1 hg.2 ht
    · split at hi
      · cases hi
        obtain ⟨hg, ht⟩ := execEncMatch_next h
        exact .same hg.1 hg.2.1 hg.2.2 ht
      · split at hi
        · cases hi
          obtain ⟨hg, ht⟩ := execEncCap_next h
          exact .cap hg.1 hg.2.1 hg.2.2 ht
        · cases hi

theorem decCount_cases (h : exec (selectDec d) s = .next t) : DecCountCase d s t := by
  unfold selectDec at h
  split at h
  · next hd => exact .streamEnd hd (execDecEnd_next h)
  · next hd => exact .run hd (execDecRun_next h).2

theorem wordCase_of_exec {w : OpWord} {i : Instr} (hi : decodeOp w s = .ok i) (h : exec i s = .next t) :
    WordCase w s t := by
  rcases decodeOp_cases s w with ⟨d, rfl, e⟩ | ⟨d, rfl, e⟩ | ⟨d, rfl, e⟩ | ⟨d, rfl, e⟩ | ⟨d, rfl, e⟩ | ⟨d, rfl, e⟩ |
    ⟨d, rfl, e⟩ | ⟨d, rfl, e⟩ | ⟨low, d, rfl, e⟩ <;> rw [e] at hi
  · cases hi; exact .reset d rfl (execReset_next (d := d) h)
  · exact .feed d rfl (feed_cases hi h)
  · cases hi; exact .ckClear d rfl (execCkClear_next (d := d) h)
  · cases hi; exact .ckFold d rfl (execCkFold_next h)
  · exact .encByte d rfl (encByte_cases hi h)
  · cases hi; exact .encEnd d rfl (execEncEnd_next (d := d) h)
  · cases hi; exact .decCount d rfl (decCount_cases h)
  · cases hi; cases h
  · cases hi; cases h

/-- A step on a presented word is one of these cases at the state as it stands. -/
theorem step_present_cases {w : OpWord} (h : step (s.present w) = .next t) : WordCase w s t := by
  rw [step_present] at h
  cases hd : decodeOp w s with
  | ok i => rw [hd] at h; exact wordCase_of_exec hd h
  | error e => rw [hd] at h; cases e <;> cases h

/-- Any step: nothing is presented, or one of these cases at the state less the word taken. -/
theorem step_cases (h : step s = .next t) :
    (s.pending = [] ∧ t = s.emit []) ∨ ∃ w ws, s.pending = w :: ws ∧ WordCase w (s.setPending ws) t := by
  rcases step_next h with hn | ⟨w, ws, i, hp, hd, hx⟩
  · exact .inl hn
  · exact .inr ⟨w, ws, hp, wordCase_of_exec hd hx⟩

end Sys2Proof.Machine
end

