-- ==== Sys2Proof/Laws/Checksum.lean ====
section
/-! SUPPORT. The accumulator form of the fold (40_checksum.md R101) and its step. -/

namespace Sys2Proof.Machine

@[simp] theorem foldXor_nil : foldXor [] = 0x00#8 := rfl

/-- R101: the fold is the accumulator that starts at `0x00`. -/
theorem foldXor_eq_foldl (bs : List Byte) : foldXor bs = bs.foldl (· ^^^ ·) 0x00#8 := by
  cases bs with
  | nil => rfl
  | cons b bs => simp [foldXor]

theorem foldl_xor_init (bs : List Byte) (x : Byte) : bs.foldl (· ^^^ ·) x = x ^^^ foldXor bs := by
  rw [foldXor_eq_foldl]
  induction bs generalizing x with
  | nil => simp
  | cons b bs ih =>
    simp only [List.foldl_cons]
    rw [ih (x ^^^ b), ih (0x00#8 ^^^ b)]
    simp [BitVec.xor_assoc]

@[simp] theorem foldXor_cons (b : Byte) (bs : List Byte) : foldXor (b :: bs) = b ^^^ foldXor bs := by
  rw [← foldl_xor_init]; rfl

/-- One more byte in the accumulator. -/
theorem foldXor_concat (bs : List Byte) (b : Byte) : foldXor (bs ++ [b]) = foldXor bs ^^^ b := by
  simp [foldXor_eq_foldl, List.foldl_append]

end Sys2Proof.Machine
end

