-- ==== Sys2Proof/Laws/PerInstr.lean ====
section
/-! SUPPORT. The family TableBits: for each instruction, the bits of its encoding, numbered as spec/opcode_table.json numbers them, spell
its code word again, so that nothing is lost between the table's numbers and the decoder's words (30_encoding.md R70, R74, R83). -/

namespace Sys2Proof
open Sys2Proof.Machine

/-- The number and length of a code word spell that code word: an operation word in its 12 bits and in the two bytes that hold it, a
command byte in its 8 bits. -/
def Laws.TableBits.Statement (i : Instr) : Prop :=
  match encode i with
  | .opw12 w => codeWordOf 12 w.toNat = .ok (.opw12 w) ∧ codeWordOf 16 w.toNat = .ok (.opw12 w)
  | .frameCmd8 b => codeWordOf 8 b.toNat = .ok (.frameCmd8 b)

theorem codeWordOf_opWord (w : OpWord) :
    codeWordOf 12 w.toNat = .ok (.opw12 w) ∧ codeWordOf 16 w.toNat = .ok (.opw12 w) := by
  have h : w.toNat < 4096 := w.isLt
  simp [codeWordOf, h]

theorem codeWordOf_cmdByte (b : Byte) : codeWordOf 8 b.toNat = .ok (.frameCmd8 b) := by
  have h : b.toNat < 256 := b.isLt
  simp [codeWordOf, h]

theorem Laws.TableBits.reset (d : Byte) : Laws.TableBits.Statement (.reset d) := codeWordOf_opWord _
theorem Laws.TableBits.rxIdleStart : Laws.TableBits.Statement .rxIdleStart := codeWordOf_opWord _
theorem Laws.TableBits.rxIdleReject (d : Byte) : Laws.TableBits.Statement (.rxIdleReject d) := codeWordOf_opWord _
theorem Laws.TableBits.rxLenAccept (d : Byte) : Laws.TableBits.Statement (.rxLenAccept d) := codeWordOf_opWord _
theorem Laws.TableBits.rxLenZero : Laws.TableBits.Statement .rxLenZero := codeWordOf_opWord _
theorem Laws.TableBits.rxLenOversize (d : Byte) : Laws.TableBits.Statement (.rxLenOversize d) := codeWordOf_opWord _
theorem Laws.TableBits.rxDataMore (d : Byte) : Laws.TableBits.Statement (.rxDataMore d) := codeWordOf_opWord _
theorem Laws.TableBits.rxDataLast (d : Byte) : Laws.TableBits.Statement (.rxDataLast d) := codeWordOf_opWord _
theorem Laws.TableBits.rxCkMatch (d : Byte) : Laws.TableBits.Statement (.rxCkMatch d) := codeWordOf_opWord _
theorem Laws.TableBits.rxCkMismatch (d : Byte) : Laws.TableBits.Statement (.rxCkMismatch d) := codeWordOf_opWord _
theorem Laws.TableBits.rxEtxAccept : Laws.TableBits.Statement .rxEtxAccept := codeWordOf_opWord _
theorem Laws.TableBits.rxEtxReject (d : Byte) : Laws.TableBits.Statement (.rxEtxReject d) := codeWordOf_opWord _
theorem Laws.TableBits.ckClear (d : Byte) : Laws.TableBits.Statement (.ckClear d) := codeWordOf_opWord _
theorem Laws.TableBits.ckFold (d : Byte) : Laws.TableBits.Statement (.ckFold d) := codeWordOf_opWord _
theorem Laws.TableBits.encTail (d : Byte) : Laws.TableBits.Statement (.encTail d) := codeWordOf_opWord _
theorem Laws.TableBits.encMatch (d : Byte) : Laws.TableBits.Statement (.encMatch d) := codeWordOf_opWord _
theorem Laws.TableBits.encCap (d : Byte) : Laws.TableBits.Statement (.encCap d) := codeWordOf_opWord _
theorem Laws.TableBits.encMismatch (d : Byte) : Laws.TableBits.Statement (.encMismatch d) := codeWordOf_opWord _
theorem Laws.TableBits.encEnd (d : Byte) : Laws.TableBits.Statement (.encEnd d) := codeWordOf_opWord _
theorem Laws.TableBits.decRun (d : Byte) : Laws.TableBits.Statement (.decRun d) := codeWordOf_opWord _
theorem Laws.TableBits.decEnd : Laws.TableBits.Statement .decEnd := codeWordOf_opWord _
theorem Laws.TableBits.reserved7 (d : Byte) : Laws.TableBits.Statement (.reserved7 d) := codeWordOf_opWord _
theorem Laws.TableBits.reserved8F (low : BitVec 3) (d : Byte) : Laws.TableBits.Statement (.reserved8F low d) := codeWordOf_opWord _
theorem Laws.TableBits.frameCmdRow : Laws.TableBits.Statement .frameCmdRow := codeWordOf_cmdByte _
theorem Laws.TableBits.frameCmdRefresh : Laws.TableBits.Statement .frameCmdRefresh := codeWordOf_cmdByte _
theorem Laws.TableBits.frameCmdUndefined (cmd : Byte) : Laws.TableBits.Statement (.frameCmdUndefined cmd) := codeWordOf_cmdByte _

end Sys2Proof
end

