-- ==== Sys2Proof/Tests/Slice0.lean ====
section
/-! SUPPORT. Tests, each named theorem with its source: words written out from spec/opcode_table.json, single steps of
spec/95_test_vectors.md (configuration T unless said otherwise), ill-formed terms that WellFormed refuses, and for every statement with
hypotheses a concrete state and operands that meet them (witness_<statement>). -/

namespace Sys2Proof.Tests
open Sys2Proof Sys2Proof.Machine

/-- The answer is a next state with the property `p`. -/
def nextHas (o : Outcome) (p : State → Bool) : Bool :=
  match o with
  | .next t => p t
  | .fault _ => false
  | .refused _ => false

/-- The answer is this refusal. -/
def refusedWith (o : Outcome) (r : Refusal) : Bool :=
  match o with
  | .next _ => false
  | .fault _ => false
  | .refused r' => decide (r' = r)

/-- The instance `c` with its receiver in `st` and the bytes `bs` buffered and folded. -/
def rx (c : Config) (st : RxState) (bs : List Byte) : State :=
  ((State.resetWith c).setBuf (Memory.ofBytes 0 bs)).setReceiver st bs.length (foldXor bs)

/-- Configuration T with the encoder's registers set. -/
def enc (v n : Byte) (pos : Nat) : State := State.reset.setEnc v n pos

/-- The receiver is idle, with nothing buffered. -/
def idleEmpty (t : State) : Bool := decide (t.rxState = .idle ∧ t.rxBuf = [] ∧ t.rxCount = 0 ∧ t.rxAcc = 0x00#8)

/-! ### WellFormed refuses ill-formed terms (the data bytes each row excludes) -/

theorem test_wf_idleReject : ¬ (Instr.rxIdleReject 0x02#8).WellFormed := by decide
theorem test_wf_lenAccept : ¬ (Instr.rxLenAccept 0x00#8).WellFormed := by decide
theorem test_wf_lenOversize : ¬ (Instr.rxLenOversize 0x03#8).WellFormed := by decide
theorem test_wf_etxReject : ¬ (Instr.rxEtxReject 0x03#8).WellFormed := by decide
theorem test_wf_decRun : ¬ (Instr.decRun 0xFF#8).WellFormed := by decide
theorem test_wf_cmdUndefined_row : ¬ (Instr.frameCmdUndefined 0x00#8).WellFormed := by decide
theorem test_wf_cmdUndefined_refresh : ¬ (Instr.frameCmdUndefined 0x01#8).WellFormed := by decide

/-! ### Decoding: one word per constructor, `op` in bits 11..8 and `d` in bits 7..0 (R70), written out bit by bit -/

theorem test_decode_reset : decodeOp 0b0000_10101011#12 State.reset = .ok (.reset 0xAB#8) := by decide
theorem test_decode_idleStart : decodeOp 0b0001_00000010#12 State.reset = .ok .rxIdleStart := by decide
theorem test_decode_idleReject : decodeOp 0b0001_01010101#12 State.reset = .ok (.rxIdleReject 0x55#8) := by decide
theorem test_decode_lenAccept :
    decodeOp 0b0001_00000110#12 (rx .test .lengthNext [0x02#8]) = .ok (.rxLenAccept 0x06#8) := by decide
theorem test_decode_lenZero : decodeOp 0b0001_00000000#12 (rx .test .lengthNext [0x02#8]) = .ok .rxLenZero := by decide
theorem test_decode_lenOversize :
    decodeOp 0b0001_00000111#12 (rx .test .lengthNext [0x02#8]) = .ok (.rxLenOversize 0x07#8) := by decide
theorem test_decode_dataMore :
    decodeOp 0b0001_00000010#12 (rx .test .dataNext [0x02#8, 0x03#8]) = .ok (.rxDataMore 0x02#8) := by decide
theorem test_decode_dataLast :
    decodeOp 0b0001_00000011#12 (rx .test .dataNext [0x02#8, 0x01#8]) = .ok (.rxDataLast 0x03#8) := by decide
theorem test_decode_ckMatch :
    decodeOp 0b0001_00000010#12 (rx .test .checksumNext [0x02#8, 0x01#8, 0x01#8]) = .ok (.rxCkMatch 0x02#8) := by decide
theorem test_decode_ckMismatch :
    decodeOp 0b0001_00000011#12 (rx .test .checksumNext [0x02#8, 0x01#8, 0x01#8]) = .ok (.rxCkMismatch 0x03#8) := by decide
theorem test_decode_etxAccept :
    decodeOp 0b0001_00000011#12 (rx .test .etxNext [0x02#8, 0x01#8, 0x01#8]) = .ok .rxEtxAccept := by decide
theorem test_decode_etxReject :
    decodeOp 0b0001_00000010#12 (rx .test .etxNext [0x02#8, 0x01#8, 0x01#8]) = .ok (.rxEtxReject 0x02#8) := by decide
theorem test_decode_ckClear : decodeOp 0b0010_10101011#12 State.reset = .ok (.ckClear 0xAB#8) := by decide
theorem test_decode_ckFold : decodeOp 0b0011_10100101#12 State.reset = .ok (.ckFold 0xA5#8) := by decide
theorem test_decode_encTail : decodeOp 0b0100_01111010#12 (enc 0x00#8 1#8 1) = .ok (.encTail 0x7A#8) := by decide
theorem test_decode_encMatch : decodeOp 0b0100_00000000#12 (enc 0x00#8 253#8 0) = .ok (.encMatch 0x00#8) := by decide
theorem test_decode_encCap : decodeOp 0b0100_00000000#12 (enc 0x00#8 254#8 0) = .ok (.encCap 0x00#8) := by decide
theorem test_decode_encMismatch : decodeOp 0b0100_11111111#12 (enc 0x00#8 2#8 0) = .ok (.encMismatch 0xFF#8) := by decide
theorem test_decode_encEnd : decodeOp 0b0101_00000000#12 State.reset = .ok (.encEnd 0x00#8) := by decide
theorem test_decode_decRun : decodeOp 0b0110_11111110#12 State.reset = .ok (.decRun 0xFE#8) := by decide
theorem test_decode_decEnd : decodeOp 0b0110_11111111#12 State.reset = .ok .decEnd := by decide
theorem test_decode_reserved7 : decodeOp 0b0111_00000000#12 State.reset = .ok (.reserved7 0x00#8) := by decide
theorem test_decode_reserved8 : decodeOp 0b1000_00000000#12 State.reset = .ok (.reserved8F 0#3 0x00#8) := by decide
theorem test_decode_reservedF : decodeOp 0b1111_00010010#12 State.reset = .ok (.reserved8F 7#3 0x12#8) := by decide
theorem test_decode_cmdRow : decode (.frameCmd8 0b00000000#8) State.reset = .ok .frameCmdRow := by decide
theorem test_decode_cmdRefresh : decode (.frameCmd8 0b00000001#8) State.reset = .ok .frameCmdRefresh := by decide
theorem test_decode_cmdUndefined : decode (.frameCmd8 0b00000010#8) State.reset = .ok (.frameCmdUndefined 0x02#8) := by decide

/-- A table word longer than 12 bits spells nothing (R74). -/
theorem test_decodeTableWord_long : decodeTableWord 16 0x1102 = none := by decide
theorem test_decodeTableWord_fold : decodeTableWord 12 0x3A5 = some (.ckFold 0xA5#8) := by decide

/-- The host's fetch: the very next step runs the word; a command code runs in a complete frame. -/
theorem test_fetch_fold : nextHas (step (State.reset.withFetchWord 16 0x377)) (fun t => t.ckAcc = 0x77#8) := by decide
theorem test_fetch_refresh :
    nextHas (step (State.reset.withFetchWord 8 0x01)) (fun t => dispatchesOf t.out = [.flush] ∧ idleEmpty t) := by decide

/-! ### Single steps, from the examples of the rules and the vectors of spec/95_test_vectors.md -/

/-- RST-2. -/
theorem test_reset :
    nextHas (step ((((rx .test .dataNext [0x02#8, 0x03#8, 0x00#8]).setCk 0x77#8).setEnc 0xFF#8 1#8 1).setDec true |>.present 0x0AB#12))
      (fun t => t = State.reset) := by decide
/-- RX-1. -/
theorem test_idleStart : nextHas (step (State.reset.present 0x102#12)) (fun t =>
    t.rxState = .lengthNext ∧ t.rxCount = 1 ∧ t.rxAcc = 0x02#8 ∧ t.rxBuf = [(0, 0x02#8)] ∧
      t.out = [.result .pending]) := by decide
/-- RX-2. -/
theorem test_idleReject : nextHas (step (State.reset.present 0x155#12)) (fun t =>
    idleEmpty t ∧ t.out = [.reply 0x15#8, .result (.rejected .badStart)]) := by decide
/-- RX-4. -/
theorem test_lenAccept : nextHas (step ((rx .test .lengthNext [0x02#8]).present 0x103#12)) (fun t =>
    t.rxState = .dataNext ∧ t.rxCount = 2 ∧ t.rxAcc = 0x01#8 ∧ t.rxBuf = [(0, 0x02#8), (1, 0x03#8)]) := by decide
/-- R128: no 8-bit wrap-around, configuration T257. -/
theorem test_lenAccept_255 : nextHas (step ((rx .test257 .lengthNext [0x02#8]).present 0x1FF#12)) (fun t =>
    t.rxState = .dataNext ∧ t.rxBuf.read 1 = some 0xFF#8) := by decide
/-- RX-5. -/
theorem test_lenZero : nextHas (step ((rx .test .lengthNext [0x02#8]).present 0x100#12)) (fun t =>
    idleEmpty t ∧ t.out = [.reply 0x15#8, .result (.rejected .zeroLength)]) := by decide
/-- RX-6. -/
theorem test_lenOversize : nextHas (step ((rx .test .lengthNext [0x02#8]).present 0x107#12)) (fun t =>
    idleEmpty t ∧ t.out = [.reply 0x15#8, .result (.rejected .oversize)]) := by decide
/-- RX-8. -/
theorem test_dataMore : nextHas (step ((rx .test .dataNext [0x02#8, 0x03#8]).present 0x100#12)) (fun t =>
    t.rxState = .dataNext ∧ t.rxCount = 3 ∧ t.rxBuf.read 2 = some 0x00#8 ∧ t.out = [.result .pending]) := by decide
/-- RX-9. -/
theorem test_dataLast :
    nextHas (step ((rx .test .dataNext [0x02#8, 0x03#8, 0x00#8, 0x00#8]).present 0x100#12)) (fun t =>
      t.rxState = .checksumNext ∧ t.rxCount = 5 ∧ t.rxAcc = 0x01#8) := by decide
/-- RX-10. -/
theorem test_ckMatch :
    nextHas (step ((rx .test .checksumNext [0x02#8, 0x03#8, 0x00#8, 0x00#8, 0x00#8]).present 0x101#12)) (fun t =>
      t.rxState = .etxNext ∧ t.rxCount = 5 ∧ t.rxBuf.read 5 = none) := by decide
/-- RX-11. -/
theorem test_ckMismatch :
    nextHas (step ((rx .test .checksumNext [0x02#8, 0x03#8, 0x00#8, 0x00#8, 0x00#8]).present 0x1FF#12)) (fun t =>
      idleEmpty t ∧ t.out = [.reply 0x15#8, .result (.rejected .badChecksum)]) := by decide
/-- RX-16: `A5` is `1010 0101`, most significant bit first, before the ACK. -/
theorem test_etxAccept_row :
    nextHas (step ((rx .test .etxNext [0x02#8, 0x03#8, 0x00#8, 0x05#8, 0xA5#8]).present 0x103#12)) (fun t =>
      idleEmpty t ∧ t.out =
        [.dispatch (.setPixel 0 5 true), .dispatch (.setPixel 1 5 false), .dispatch (.setPixel 2 5 true),
         .dispatch (.setPixel 3 5 false), .dispatch (.setPixel 4 5 false), .dispatch (.setPixel 5 5 true),
         .dispatch (.setPixel 6 5 false), .dispatch (.setPixel 7 5 true),
         .reply 0x06#8, .result (.accepted (.row 0x05#8 [0xA5#8]))]) := by decide
/-- RX-26, configuration T16: the second byte holds pixels 8 to 15. -/
theorem test_etxAccept_row16 :
    nextHas (step ((rx .test16 .etxNext [0x02#8, 0x04#8, 0x00#8, 0x01#8, 0xFF#8, 0x00#8]).present 0x103#12)) (fun t =>
      dispatchesOf t.out = (List.range 16).map (fun x => .setPixel x 1 (decide (x < 8)))) := by decide
/-- RX-14: a `0x02` in place of the end marker is no start marker. -/
theorem test_etxReject : nextHas (step ((rx .test .etxNext [0x02#8, 0x01#8, 0x01#8]).present 0x102#12)) (fun t =>
    idleEmpty t ∧ t.out = [.reply 0x15#8, .result (.rejected .badEtx)]) := by decide
/-- CK-1 and RSV-3. -/
theorem test_ckClear : nextHas (step ((State.reset.setCk 0x5A#8).present 0x2AB#12)) (fun t => t = State.reset) := by decide
/-- CK-3. -/
theorem test_ckFold : nextHas (step ((State.reset.setCk 0x02#8).present 0x303#12)) (fun t =>
    t = State.reset.setCk 0x01#8) := by decide
/-- The example of R172. -/
theorem test_encTail : nextHas (step ((enc 0x00#8 1#8 1).present 0x47A#12)) (fun t => t = enc 0x00#8 1#8 2) := by decide
/-- The last byte of a record, R171. -/
theorem test_encTail_wrap : nextHas (step ((enc 0x00#8 1#8 2).present 0x400#12)) (fun t => t = enc 0x00#8 1#8 0) := by decide
/-- The example of R173. -/
theorem test_encMatch : nextHas (step ((enc 0x00#8 3#8 0).present 0x400#12)) (fun t => t = enc 0x00#8 4#8 1) := by decide
/-- R174: a run of exactly 254 records is not split. -/
theorem test_encMatch_254 : nextHas (step ((enc 0x00#8 253#8 0).present 0x400#12)) (fun t => t = enc 0x00#8 254#8 1) := by decide
/-- The example of R174. -/
theorem test_encCap : nextHas (step ((enc 0x00#8 254#8 0).present 0x400#12)) (fun t =>
    t = (enc 0x00#8 1#8 1).emit [.count 0xFE#8, .count 0x00#8]) := by decide
/-- The example of R175. -/
theorem test_encMismatch : nextHas (step ((enc 0x00#8 2#8 0).present 0x4FF#12)) (fun t =>
    t = (enc 0xFF#8 1#8 1).emit [.count 0x02#8]) := by decide
/-- The example of R176. -/
theorem test_encEnd : nextHas (step ((enc 0xFF#8 1#8 1).present 0x500#12)) (fun t =>
    t = State.reset.emit [.count 0x01#8, .count 0xFF#8]) := by decide
/-- The example of R181. -/
theorem test_decRun : nextHas (step (State.reset.present 0x602#12)) (fun t =>
    t = (State.reset.setDec true).emit [.run 0x00#8 2]) := by decide
/-- R181: a zero count toggles the parity too, from the other value. -/
theorem test_decRun_zero : nextHas (step ((State.reset.setDec true).present 0x600#12)) (fun t =>
    t = State.reset.emit [.run 0xFF#8 0]) := by decide
/-- The example of R182. -/
theorem test_decEnd : nextHas (step ((State.reset.setDec true).present 0x6FF#12)) (fun t =>
    t = State.reset.emit [.streamEnd]) := by decide
/-- RSV-1. -/
theorem test_reserved7 : refusedWith (step (State.reset.present 0x700#12)) (.reservedOperation 0x7#4 0x00#8) := by decide
/-- RSV-2. -/
theorem test_reserved8F : refusedWith (step (State.reset.present 0xF12#12)) (.reservedOperation 0xF#4 0x12#8) := by decide
/-- RX-21: row `8 >= HEIGHT`, no dispatch. -/
theorem test_cmdRow_outOfRange :
    nextHas (exec .frameCmdRow (rx .test .etxNext [0x02#8, 0x03#8, 0x00#8, 0x08#8, 0xFF#8])) (fun t => t.out = []) := by decide
/-- RX-25: the byte beyond `WB` is ignored. -/
theorem test_cmdRow_extra :
    nextHas (exec .frameCmdRow (rx .test .etxNext [0x02#8, 0x04#8, 0x00#8, 0x01#8, 0x81#8, 0x55#8])) (fun t =>
      dispatchesOf t.out = (List.range 8).map (fun x => .setPixel x 1 (decide (x = 0 ∨ x = 7)))) := by decide
/-- RX-7: the data bytes of a refresh are ignored. -/
theorem test_cmdRefresh :
    nextHas (exec .frameCmdRefresh (rx .test .etxNext
      [0x02#8, 0x06#8, 0x01#8, 0x09#8, 0x09#8, 0x09#8, 0x09#8, 0x09#8])) (fun t => t.out = [.dispatch .flush]) := by decide
/-- RX-19. -/
theorem test_cmdUndefined :
    nextHas (exec (.frameCmdUndefined 0x07#8) (rx .test .etxNext [0x02#8, 0x01#8, 0x07#8])) (fun t => t.out = []) := by decide
theorem test_cmdUndefined_accepted :
    nextHas (step ((rx .test .etxNext [0x02#8, 0x01#8, 0x07#8]).present 0x103#12)) (fun t =>
      t.out = [.reply 0x06#8, .result (.accepted (.unrecognized 0x07#8 0x01#8 .unknownCommand))]) := by decide
/-- SRC-4: the frame of `FRAME.ROW 05, A5`. -/
theorem test_frameRow : frameRow 0x05#8 [0xA5#8] = [0x02#8, 0x03#8, 0x00#8, 0x05#8, 0xA5#8, 0xA1#8, 0x03#8] := by decide
/-- SRC-4: the refresh frame (R231). -/
theorem test_frameRefresh : craftRefreshFrame = [0x02#8, 0x01#8, 0x01#8, 0x02#8, 0x03#8] := by decide
/-- SRC-1a: the host's row frame for an all-zero row. -/
theorem test_craftRow :
    craftRowFrame (List.replicate 8 0x00#8) 0x00#8 = [0x02#8, 0x03#8, 0x00#8, 0x00#8, 0x00#8, 0x01#8, 0x03#8] := by decide
/-- SRC-3: budget 3 and a receiver that always NAKs. -/
theorem test_src3 :
    sendAll (fun _ (u : Unit) => (u, [0x15#8])) 3 [craftRefreshFrame, craftRefreshFrame] ⟨(), [], 0⟩ =
      (.fatalExhausted, ⟨(), [], 3⟩) := by decide
/-- RLE-6a: 508 records are one pair and a last count of 254. -/
theorem test_runCounts_508 : runCounts 508 = [254#8, 0#8, 254#8] := by decide
/-- RLE-7 and RLE-1. -/
theorem test_streamCounts : streamCounts .test [0x00#8, 0x00#8, 0xFF#8, 0xFF#8, 0xFF#8, 0x00#8] =
    [0x02#8, 0x03#8, 0x01#8, 0xFF#8] ∧ streamCounts .test [] = [0x00#8, 0xFF#8] := by decide

/-! ### Witnesses: for every statement with hypotheses, a concrete state and operands that meet them -/

/-- The invariant of a state built by `rx`: its row of R30 is enough. -/
theorem inv_rx {c : Config} {st : RxState} {bs : List Byte} (hv : c.Valid) (h : (rx c st bs).stateRow) :
    (rx c st bs).Inv := by
  refine ⟨hv, ⟨?_, ?_, h⟩, ?_⟩
  · simp [State.bufShape, rx, List.range_eq_range']
  · simp [State.accShape, rx]
  · exact ⟨(by decide : (0#8 : Byte) ≤ rleMaxRun), hv.2.2.2.2.2.2.2.1, fun _ => ⟨rfl, rfl⟩⟩

theorem inv_reset : State.reset.Inv := inv_rx (c := .test) (st := .idle) (bs := []) (by decide) ⟨rfl, rfl, rfl⟩

theorem inv_enc {v n : Byte} {pos : Nat} (hn : n ≤ rleMaxRun) (h0 : n ≠ 0#8) (hp : pos < 3) : (enc v n pos).Inv :=
  ⟨inv_reset.1, inv_reset.2.1, hn, hp, fun h => absurd h h0⟩

/-- DATA_NEXT with `L` declared and the command byte still to come. -/
theorem inv_data {L : Byte} (h1 : 1 ≤ L.toNat) (h2 : 2 + L.toNat ≤ 8) : (rx .test .dataNext [0x02#8, L]).Inv :=
  inv_rx (by decide) ⟨L, ⟨h1, h2, rfl, rfl⟩, le_rfl, by show 2 < 2 + L.toNat; omega⟩

/-- CHECKSUM_NEXT with a whole refresh span buffered. -/
theorem inv_checksum : (rx .test .checksumNext [0x02#8, 0x01#8, 0x01#8]).Inv :=
  inv_rx (by decide) ⟨1#8, ⟨by decide, by decide, rfl, rfl⟩, rfl⟩

/-- ETX_NEXT with a one-byte payload. -/
theorem inv_etx1 (cmd : Byte) : (rx .test .etxNext [0x02#8, 0x01#8, cmd]).Inv :=
  inv_rx (by decide) ⟨1#8, ⟨by decide, (by decide : 3 ≤ 8), rfl, rfl⟩, rfl⟩

/-- ETX_NEXT with a whole row span. -/
theorem inv_etx3 (r b : Byte) : (rx .test .etxNext [0x02#8, 0x03#8, 0x00#8, r, b]).Inv :=
  inv_rx (by decide) ⟨3#8, ⟨by decide, (by decide : 5 ≤ 8), rfl, rfl⟩, rfl⟩

theorem witness_PowerOnStateIsTheResetState :
    State.reset.cfg = Config.test ∧ (rx .test16 .lengthNext [0x02#8]).cfg = Config.test16 := by decide

theorem witness_ReservedWordsAreRefused :
    ∀ w ∈ [0x700#12, 0x8AB#12, 0xFFF#12], (State.reset.present w).pending = w :: [] ∧ 7 ≤ (opOf w).toNat := by decide

theorem witness_StartMarkerOpensAFrame :
    State.reset.cfg.Valid ∧ State.reset.rxState = .idle ∧ (rx .test .etxNext [0x02#8, 0x01#8, 0x01#8]).rxState ≠ .idle := by
  decide

theorem witness_OtherByteInIdleIsNaked :
    State.reset.rxState = .idle ∧ (0x01#8 : Byte) ≠ 0x02#8 ∧ (0x03#8 : Byte) ≠ 0x02#8 := by decide

/-- Lengths 1 and 6 are the ends of the admitted range of T, 7 the first beyond it. -/
theorem witness_AdmissibleLengthIsBuffered :
    (rx .test .lengthNext [0x02#8]).rxState = .lengthNext ∧
    (∀ d ∈ [0x01#8, 0x06#8], 1 ≤ d.toNat ∧ 2 + d.toNat ≤ (rx .test .lengthNext [0x02#8]).cfg.rxBufCap) ∧
    (rx .test .lengthNext [0x02#8]).cfg.rxBufCap < 2 + (0x07#8 : Byte).toNat := by decide

theorem witness_ZeroLengthIsRejected : (rx .test .lengthNext [0x02#8]).rxState = .lengthNext := by decide

theorem witness_OversizeLengthIsRejected :
    (rx .test .lengthNext [0x02#8]).cfg.Valid ∧ (rx .test .lengthNext [0x02#8]).rxState = .lengthNext ∧
    (∀ d ∈ [0x07#8, 0xFF#8], (rx .test .lengthNext [0x02#8]).cfg.rxBufCap < 2 + d.toNat) ∧
    (rx .test257 .lengthNext [0x02#8]).cfg.rxBufCap = 257 := by decide

theorem witness_PayloadByteIsBuffered :
    ((rx .test .dataNext [0x02#8, 0x02#8]).Inv ∧ (rx .test .dataNext [0x02#8, 0x02#8]).rxState = .dataNext ∧
      (rx .test .dataNext [0x02#8, 0x02#8]).rxBuf.read 1 = some 0x02#8 ∧
      (rx .test .dataNext [0x02#8, 0x02#8]).rxCount + 1 < 2 + (0x02#8 : Byte).toNat) ∧
    ((rx .test .dataNext [0x02#8, 0x01#8]).Inv ∧ (rx .test .dataNext [0x02#8, 0x01#8]).rxState = .dataNext ∧
      (rx .test .dataNext [0x02#8, 0x01#8]).rxBuf.read 1 = some 1#8) :=
  ⟨⟨inv_data (by decide) (by decide), rfl, rfl, by decide⟩, inv_data (by decide) (by decide), rfl, rfl⟩

/-- The first payload byte as the last one, and the byte that fills the buffer. -/
theorem witness_LastPayloadByteIsBuffered :
    ((rx .test .dataNext [0x02#8, 0x01#8]).Inv ∧ (rx .test .dataNext [0x02#8, 0x01#8]).rxState = .dataNext ∧
      (rx .test .dataNext [0x02#8, 0x01#8]).rxBuf.read 1 = some 0x01#8 ∧
      (rx .test .dataNext [0x02#8, 0x01#8]).rxCount + 1 = 2 + (0x01#8 : Byte).toNat) ∧
    ((rx .test .dataNext [0x02#8, 0x06#8, 1#8, 9#8, 9#8, 9#8, 9#8]).Inv ∧
      (rx .test .dataNext [0x02#8, 0x06#8, 1#8, 9#8, 9#8, 9#8, 9#8]).rxCount + 1 = 2 + (0x06#8 : Byte).toNat) :=
  ⟨⟨inv_data (by decide) (by decide), rfl, rfl, rfl⟩,
    inv_rx (by decide) ⟨6#8, ⟨by decide, by decide, rfl, rfl⟩, by decide, by decide⟩, rfl⟩

theorem witness_MatchingChecksumAwaitsTheEndMarker :
    (rx .test .checksumNext [0x02#8, 0x01#8, 0x01#8]).Inv ∧
    (rx .test .checksumNext [0x02#8, 0x01#8, 0x01#8]).rxState = .checksumNext := ⟨inv_checksum, rfl⟩

theorem witness_MismatchingChecksumIsRejected :
    (rx .test .checksumNext [0x02#8, 0x01#8, 0x01#8]).rxState = .checksumNext ∧
    (0x03#8 : Byte) ≠ (rx .test .checksumNext [0x02#8, 0x01#8, 0x01#8]).rxAcc := by decide

theorem witness_EndMarkerAcceptsTheFrame :
    (rx .test .etxNext [0x02#8, 0x03#8, 0x00#8, 0x05#8, 0xA5#8]).Inv ∧
    (rx .test .etxNext [0x02#8, 0x03#8, 0x00#8, 0x05#8, 0xA5#8]).rxState = .etxNext := ⟨inv_etx3 _ _, rfl⟩

theorem witness_WrongTerminatorIsRejected :
    (rx .test .etxNext [0x02#8, 0x01#8, 0x01#8]).rxState = .etxNext ∧ (0x02#8 : Byte) ≠ 0x03#8 ∧ (0x04#8 : Byte) ≠ 0x03#8 := by
  decide

/-- A row one byte short, the last row of the display and the first beyond it, a refresh, and the command codes 2 and 255. -/
theorem witness_ClassificationFollowsCommandLengthAndRow :
    ((rx .test .etxNext [0x02#8, 0x02#8, 0x00#8, 0x03#8]).Inv ∧
      (rx .test .etxNext [0x02#8, 0x02#8, 0x00#8, 0x03#8]).rxBuf.read 1 = some 2#8 ∧ (2#8 : Byte).toNat < 2 + Config.test.wb) ∧
    (∀ r ∈ [0x07#8, 0x08#8], (rx .test .etxNext [0x02#8, 0x03#8, 0x00#8, r, 0x00#8]).Inv ∧
      (rx .test .etxNext [0x02#8, 0x03#8, 0x00#8, r, 0x00#8]).rxBuf.read 1 = some 3#8 ∧
      2 + Config.test.wb ≤ (3#8 : Byte).toNat) ∧
    (∀ cmd ∈ [0x01#8, 0x02#8, 0xFF#8], (rx .test .etxNext [0x02#8, 0x01#8, cmd]).Inv ∧
      (rx .test .etxNext [0x02#8, 0x01#8, cmd]).rxState = .etxNext ∧
      (rx .test .etxNext [0x02#8, 0x01#8, cmd]).rxBuf.read 2 = some cmd) :=
  ⟨⟨inv_rx (by decide) ⟨2#8, ⟨by decide, by decide, rfl, rfl⟩, rfl⟩, rfl, by decide⟩,
    fun _ _ => ⟨inv_etx3 _ _, rfl, by decide⟩, fun _ _ => ⟨inv_etx1 _, rfl, rfl⟩⟩

/-- Pixels 0, 7, 8 and 15 of a row of T16. -/
theorem witness_RowPixelsAreMostSignificantBitFirst :
    Config.test16.width % 8 = 0 ∧ [0xFF#8, 0x00#8].length = Config.test16.wb ∧
    ([0xFF#8, 0x00#8] : List Byte)[0 / 8]? = some 0xFF#8 ∧ ([0xFF#8, 0x00#8] : List Byte)[7 / 8]? = some 0xFF#8 ∧
    ([0xFF#8, 0x00#8] : List Byte)[8 / 8]? = some 0x00#8 ∧ ([0xFF#8, 0x00#8] : List Byte)[15 / 8]? = some 0x00#8 := by
  decide

theorem witness_RowCommandDispatches :
    (rx .test .etxNext [0x02#8, 0x03#8, 0x00#8, 0x05#8, 0xA5#8]).Inv ∧
    (rx .test .etxNext [0x02#8, 0x03#8, 0x00#8, 0x05#8, 0xA5#8]).rxState = .etxNext ∧
    (rx .test .etxNext [0x02#8, 0x03#8, 0x00#8, 0x05#8, 0xA5#8]).rxBuf.read 2 = some 0x00#8 := ⟨inv_etx3 _ _, rfl, rfl⟩

theorem witness_RefreshCommandFlushes :
    (rx .test .etxNext [0x02#8, 0x01#8, 0x01#8]).Inv ∧ (rx .test .etxNext [0x02#8, 0x01#8, 0x01#8]).rxState = .etxNext ∧
    (rx .test .etxNext [0x02#8, 0x01#8, 0x01#8]).rxBuf.read 2 = some 0x01#8 := ⟨inv_etx1 _, rfl, rfl⟩

theorem witness_UndefinedCommandIsAcknowledgedWithoutDispatch :
    ∀ cmd ∈ [0x02#8, 0xFF#8], (rx .test .etxNext [0x02#8, 0x01#8, cmd]).Inv ∧
      (rx .test .etxNext [0x02#8, 0x01#8, cmd]).rxState = .etxNext ∧
      (rx .test .etxNext [0x02#8, 0x01#8, cmd]).rxBuf.read 1 = some 1#8 ∧
      (rx .test .etxNext [0x02#8, 0x01#8, cmd]).rxBuf.read 2 = some cmd ∧ cmd ≠ 0x00#8 ∧ cmd ≠ 0x01#8 := by
  intro cmd h
  refine ⟨inv_etx1 cmd, rfl, rfl, rfl, ?_, ?_⟩ <;> revert cmd <;> decide

/-- A CK.CLEAR, a fold, a byte of the receiver, a fold. -/
theorem witness_ChecksumUnitFoldsTheBytesPresented :
    opOf 0x200#12 = 0x2#4 ∧ opOf 0x000#12 = 0x0#4 ∧
    (∀ v ∈ [0x301#12, 0x102#12, 0x302#12], opOf v ≠ 0x0#4 ∧ opOf v ≠ 0x2#4) ∧
    (runWords [0x200#12, 0x301#12, 0x102#12, 0x302#12] State.reset).isSome = true := by decide

theorem witness_ChecksumLaws : ([0x01#8, 0x02#8] : List Byte).Perm [0x02#8, 0x01#8] := List.Perm.swap _ _ _

theorem witness_ChecksumErrorDetection :
    0 < ([0x01#8, 0x02#8] : List Byte).length ∧ 1 < ([0x01#8, 0x02#8] : List Byte).length ∧ 0 ≠ 1 ∧
    (0x80#8 : Byte) ≠ 0x00#8 ∧ ([0x04#8, 0x04#8] : List Byte).length = ([0x01#8, 0x02#8] : List Byte).length ∧
    foldXor [0x04#8, 0x04#8] = 0x00#8 ∧ ([0x01#8, 0x02#8] : List Byte).Perm [0x02#8, 0x01#8] :=
  ⟨by decide, by decide, by decide, by decide, by decide, by decide, List.Perm.swap _ _ _⟩

theorem witness_NonLeadingByteOnlyMovesThePosition :
    ((enc 0x00#8 1#8 1).encPos ≠ 0 ∧ (enc 0x00#8 1#8 2).encPos ≠ 0) ∧
    ((State.resetWith { Config.test with recordBytes := 1 }).Inv ∧
      (State.resetWith { Config.test with recordBytes := 1 }).cfg.recordBytes = 1) :=
  ⟨by decide, inv_rx (c := { Config.test with recordBytes := 1 }) (st := .idle) (bs := []) (by decide) ⟨rfl, rfl, rfl⟩, rfl⟩

theorem witness_MatchingLeadingByteCounts :
    (State.reset.encPos = 0 ∧ State.reset.encCount.toNat < 254) ∧
    ((enc 0xFF#8 253#8 0).encPos = 0 ∧ (enc 0xFF#8 253#8 0).encCount.toNat < 254) := by decide

theorem witness_CappedRunIsSplit : (enc 0x00#8 254#8 0).encPos = 0 ∧ (enc 0x00#8 254#8 0).encCount = 254#8 := by decide

/-- The mismatch at the cap (ENC-8) and the mismatch at the start of a stream (ENC-6). -/
theorem witness_MismatchingLeadingByteEndsTheRun :
    ((enc 0xFF#8 254#8 0).encPos = 0 ∧ (0x00#8 : Byte) ≠ (enc 0xFF#8 254#8 0).encValue ∧ (enc 0xFF#8 254#8 0).Inv) ∧
    (State.reset.encPos = 0 ∧ (0xFF#8 : Byte) ≠ State.reset.encValue) :=
  ⟨⟨rfl, by decide, inv_enc (by decide) (by decide) (by decide)⟩, by decide⟩

theorem witness_RunCountEmitsARun : (0x00#8 : Byte) ≠ 0xFF#8 ∧ (0xFE#8 : Byte) ≠ 0xFF#8 := by decide

theorem witness_StepRunsTheDecodedInstruction :
    (State.reset.setPending [0x102#12, 0x303#12]).pending = 0x102#12 :: [0x303#12] ∧
    decodeOp 0x102#12 (State.reset.setPending [0x102#12, 0x303#12]) = .ok .rxIdleStart := by decide

theorem witness_NothingPresentedNothingChanges : State.reset.pending = [] := by decide

theorem witness_SampleWordsDecode : Config.test.Valid ∧ Config.test16.Valid ∧ Config.test257.Valid := by decide

theorem witness_GuardsSelectExactlyOneCase :
    State.reset.Inv ∧ (opOf 0x0FF#12).toNat < 7 ∧ (opOf 0x6FF#12).toNat < 7 := ⟨inv_reset, by decide, by decide⟩

theorem witness_DecodeInvertsEncode :
    State.reset.cfg.Valid ∧ caseGuard (.rxIdleReject 0x03#8) State.reset ∧ (Instr.rxIdleReject 0x03#8).WellFormed :=
  ⟨by decide, ⟨rfl, by decide⟩, by decide⟩

theorem witness_ResetStateMeetsTheInvariant : Config.test.Valid := by decide

/-- A step of the first kind from reset, and a step that comes to ETX_NEXT. -/
theorem witness_EveryStepKeepsTheInvariant :
    (State.reset.Inv ∧ ∃ t, step State.reset = .next t) ∧
    ∃ t, step ((rx .test .checksumNext [0x02#8, 0x01#8, 0x01#8]).present 0x102#12) = .next t ∧
      (rx .test .checksumNext [0x02#8, 0x01#8, 0x01#8]).rxState ≠ .etxNext ∧ t.rxState = .etxNext :=
  ⟨⟨inv_reset, _, rfl⟩, _, rfl, by decide, rfl⟩

/-- Nothing presented, an ordinary word, and the least and the greatest reserved operation code. -/
theorem witness_OnlyReservedWordsStopAStep :
    State.reset.Inv ∧ (State.reset.present 0x155#12).Inv ∧
    ∀ w ∈ [0x700#12, 0xFFF#12], (State.reset.present w).Inv ∧ 7 ≤ (opOf w).toNat :=
  ⟨inv_reset, inv_reset, fun w h => ⟨inv_reset, by revert w; decide⟩⟩

/-- The last entry of the buffer, unwritten, and the index one past it. -/
theorem witness_UnwrittenReadFaults :
    (7 < State.reset.cfg.rxBufCap ∧ State.reset.rxBuf.read 7 = none) ∧ State.reset.cfg.rxBufCap ≤ 8 := by decide

theorem witness_EveryStepKeepsTheBufferCanonical :
    State.reset.rxBuf.wf ∧ ∃ t, step (State.reset.present 0x102#12) = .next t := ⟨by decide, _, rfl⟩

/-- The write at index 0 in IDLE, and the frame reset that empties entry 0. -/
theorem witness_BufferIsWrittenOnlyAtRxCount :
    (∃ t, (State.reset.present 0x102#12).Inv ∧ step (State.reset.present 0x102#12) = .next t ∧
      t.rxBuf.read 0 ≠ (State.reset.present 0x102#12).rxBuf.read 0) ∧
    ∃ t, step ((rx .test .etxNext [0x02#8, 0x01#8, 0x01#8]).present 0x104#12) = .next t ∧
      t.rxBuf.read 0 ≠ ((rx .test .etxNext [0x02#8, 0x01#8, 0x01#8]).present 0x104#12).rxBuf.read 0 :=
  ⟨⟨_, inv_reset, rfl, by decide⟩, _, rfl, by decide⟩

/-- A NAK, an ACK and a silent step. -/
theorem witness_RepliesAreAckOrNakAtMostOnce :
    (∃ t, exec (.rxIdleReject 0x55#8) State.reset = .next t) ∧
    (∃ t, exec .rxEtxAccept (rx .test .etxNext [0x02#8, 0x01#8, 0x01#8]) = .next t) ∧
    ∃ t, exec (.ckFold 0x01#8) State.reset = .next t := ⟨⟨_, rfl⟩, ⟨_, rfl⟩, _, rfl⟩

theorem witness_EveryFeedGivesOneResult :
    (∃ t, step (State.reset.present 0x102#12) = .next t) ∧ ∃ t, step (State.reset.present 0x301#12) = .next t :=
  ⟨⟨_, rfl⟩, _, rfl⟩

theorem witness_EveryReplyLeavesTheReceiverReset :
    ∃ t, ((rx .test .etxNext [0x02#8, 0x01#8, 0x01#8]).present 0x103#12).Inv ∧
      step ((rx .test .etxNext [0x02#8, 0x01#8, 0x01#8]).present 0x103#12) = .next t ∧ repliesOf t.out ≠ [] :=
  ⟨_, inv_etx1 _, rfl, by decide⟩

/-- The last pixel of row 5. -/
theorem witness_DisplayCallsStayOnTheDisplay :
    ∃ t, ((rx .test .etxNext [0x02#8, 0x03#8, 0x00#8, 0x05#8, 0xA5#8]).present 0x103#12).Inv ∧
      step ((rx .test .etxNext [0x02#8, 0x03#8, 0x00#8, 0x05#8, 0xA5#8]).present 0x103#12) = .next t ∧
      .setPixel 7 5 true ∈ dispatchesOf t.out := ⟨_, inv_etx3 _ _, rfl, by decide⟩

theorem witness_ParametersNeverChange : ∃ t, step (State.reset.present 0x000#12) = .next t := ⟨_, rfl⟩

theorem witness_StepTouchesOnlyTheUnitItConcerns :
    (∃ t, step (State.reset.present 0x102#12) = .next t) ∧ concerns .checksum 0x102#12 = false ∧
      concerns .encoder 0x102#12 = false ∧ concerns .decoder 0x102#12 = false ∧ concerns .receiver 0x377#12 = false :=
  ⟨⟨_, rfl⟩, by decide⟩

/-- The first words of program P4. -/
theorem witness_UnitsRunIndependently :
    (runWords [0x102#12, 0x103#12, 0x377#12, 0x100#12, 0x4FF#12] State.reset).isSome = true := by decide

/-- A refresh frame, and a frame of RX_BUF_CAP + 2 bytes (RX-7); a row of T16 with its last row index. -/
theorem witness_ConformingFrameIsAccepted :
    (State.reset.Inv ∧ State.reset.rxState = .idle ∧ ([] : List Byte).length + 3 ≤ State.reset.cfg.rxBufCap ∧
      ([9#8, 9#8, 9#8, 9#8, 9#8] : List Byte).length + 3 ≤ State.reset.cfg.rxBufCap) ∧
    (Config.test16.width % 8 = 0 ∧ ([0xFF#8, 0x00#8] : List Byte).length = Config.test16.wb ∧
      (0x07#8 : Byte).toNat < Config.test16.height ∧ 15 < Config.test16.width) :=
  ⟨⟨inv_reset, rfl, by decide, by decide⟩, by decide⟩

/-- The command byte and the checksum byte of a row frame: the ends of the range. -/
theorem witness_CorruptedPayloadOrChecksumByteIsNaked :
    State.reset.Inv ∧ State.reset.rxState = .idle ∧ ([0x00#8, 0x00#8] : List Byte).length + 3 ≤ State.reset.cfg.rxBufCap ∧
    (∀ i ∈ [2, 5], 2 ≤ i ∧ i < ([0x00#8, 0x00#8] : List Byte).length + 4) ∧ (0xFE#8 : Byte) ≠ 0x00#8 :=
  ⟨inv_reset, rfl, by decide, by decide, by decide⟩

theorem witness_CorruptedEndMarkerIsNaked :
    State.reset.Inv ∧ State.reset.rxState = .idle ∧ ([] : List Byte).length + 3 ≤ State.reset.cfg.rxBufCap ∧
    (0x01#8 : Byte) ≠ 0x00#8 := ⟨inv_reset, rfl, by decide, by decide⟩

/-- RX-12, and the longest admissible frame with a wrong checksum. -/
theorem witness_BadChecksumDrawsTwoNaks :
    (State.reset.Inv ∧ State.reset.rxState = .idle) ∧
    (([0x00#8, 0x00#8, 0x00#8] : List Byte).length = (0x03#8 : Byte).toNat ∧ 1 ≤ (0x03#8 : Byte).toNat ∧
      2 + (0x03#8 : Byte).toNat ≤ State.reset.cfg.rxBufCap ∧ (0xFF#8 : Byte) ≠ foldXor [0x02#8, 0x03#8, 0x00#8, 0x00#8, 0x00#8]) ∧
    (([1#8, 9#8, 9#8, 9#8, 9#8, 9#8] : List Byte).length = (0x06#8 : Byte).toNat ∧
      2 + (0x06#8 : Byte).toNat ≤ State.reset.cfg.rxBufCap ∧
      (0x00#8 : Byte) ≠ foldXor [0x02#8, 0x06#8, 1#8, 9#8, 9#8, 9#8, 9#8, 9#8]) :=
  ⟨⟨inv_reset, rfl⟩, by decide, by decide⟩

/-- One state of each kind: bound 9 in LENGTH_NEXT of T, 3 in DATA_NEXT before the last byte, 2 and 1; and a run of other units. -/
theorem witness_ReceiverReturnsToIdleWithinTheBound :
    ((rx .test .lengthNext [0x02#8]).Inv ∧ (rx .test .lengthNext [0x02#8]).rxState ≠ .idle ∧
      (List.replicate 9 (0x00#8 : Byte)).length = (rx .test .lengthNext [0x02#8]).returnBound) ∧
    ((rx .test .dataNext [0x02#8, 0x01#8]).Inv ∧
      (List.replicate 3 (0x00#8 : Byte)).length = (rx .test .dataNext [0x02#8, 0x01#8]).returnBound) ∧
    ((rx .test .checksumNext [0x02#8, 0x01#8, 0x01#8]).Inv ∧
      (List.replicate 2 (0x00#8 : Byte)).length = (rx .test .checksumNext [0x02#8, 0x01#8, 0x01#8]).returnBound) ∧
    ((rx .test .etxNext [0x02#8, 0x01#8, 0x01#8]).Inv ∧
      [(0x00#8 : Byte)].length = (rx .test .etxNext [0x02#8, 0x01#8, 0x01#8]).returnBound) ∧
    ((∀ w ∈ [0x377#12, 0x4FF#12, 0x602#12], concerns .receiver w = false) ∧
      (runWords [0x377#12, 0x4FF#12, 0x602#12] (rx .test .lengthNext [0x02#8])).isSome = true) :=
  ⟨⟨inv_rx (by decide) ⟨rfl, rfl, rfl⟩, by decide, by decide⟩, ⟨inv_data (by decide) (by decide), by decide⟩,
    ⟨inv_checksum, by decide⟩, ⟨inv_etx1 _, by decide⟩, by decide⟩

/-- The empty stream, and records of three bytes with three leading values. -/
theorem witness_EncoderOutputIsTheCountStream :
    State.reset.cfg.Valid ∧ State.reset.encValue = State.reset.cfg.rleV0 ∧ State.reset.encCount = 0#8 ∧
    State.reset.encPos = 0 ∧
    (∀ r ∈ ([(0x00#8, [1#8, 2#8]), (0x05#8, [0#8, 0#8]), (0xFF#8, [3#8, 4#8])] : List (Byte × List Byte)),
      r.2.length + 1 = State.reset.cfg.recordBytes) := by decide

theorem witness_RunLengthRoundTrip :
    State.reset.cfg.Valid ∧ State.reset.encValue = State.reset.cfg.rleV0 ∧ State.reset.encCount = 0#8 ∧
    State.reset.encPos = 0 ∧ State.reset.decParity = false ∧
    (∀ r ∈ ([(0x00#8, [1#8, 2#8]), (0xFF#8, [0#8, 0#8])] : List (Byte × List Byte)),
      r.2.length + 1 = State.reset.cfg.recordBytes ∧ (r.1 = State.reset.cfg.rleV0 ∨ r.1 = State.reset.cfg.rleV1)) := by decide

/-- RLE-10 against zero fillers. -/
theorem witness_NonLeadingBytesHaveNoEffect :
    State.reset.cfg.Valid ∧ State.reset.encPos = 0 ∧
    (∀ r ∈ ([(0x00#8, [0x11#8, 0x22#8])] : List (Byte × List Byte)), r.2.length + 1 = State.reset.cfg.recordBytes) ∧
    (∀ r ∈ ([(0x00#8, [0x00#8, 0x00#8])] : List (Byte × List Byte)), r.2.length + 1 = State.reset.cfg.recordBytes) ∧
    ([(0x00#8, [0x11#8, 0x22#8])] : List (Byte × List Byte)).map Prod.fst =
      ([(0x00#8, [0x00#8, 0x00#8])] : List (Byte × List Byte)).map Prod.fst := by decide

/-- A peer that always NAKs, budgets 1 and 3. -/
theorem witness_AlwaysNakedFrameIsSentExactlyATimes :
    (∀ x : Unit, ((fun _ u => (u, [0x15#8])) : List Byte → Unit → Unit × List Byte) [0x02#8] x = (x, [0x15#8])) ∧
    ((⟨(), [], 0⟩ : LinkSide Unit).queue ++ [0x15#8] = 0x15#8 :: []) ∧ (⟨(), [], 0⟩ : LinkSide Unit).queue = [] ∧
    1 ≤ 1 ∧ 1 ≤ 3 := ⟨fun _ => rfl, rfl, rfl, by decide, by decide⟩

end Sys2Proof.Tests
end

section
/-! The scope rules (00_scope.md): a step is `exec` of the decoded word (R12, R73), and no operation writes a parameter (R7, R23). -/

namespace Sys2Proof.Machine
variable {s t : State} {d : Byte}

/-! ### One step (R12, R73) -/

/-- Settles O33: `step_cons` at a word that decodes; `setPending` is the update of `pending` alone. -/
theorem stepRunsTheDecodedInstruction : Obligations.StepRunsTheDecodedInstruction := by
  intro s w ws i hp hd
  calc step s = exec i (s.setPending ws) := by rw [step_cons hp, hd]
    _ = exec i { s with pending := ws } := rfl

/-- Settles O34: with no word presented the step only clears the outputs. -/
theorem nothingPresentedNothingChanges : Obligations.NothingPresentedNothingChanges :=
  fun _ hp => step_nil hp

/-! ### The parameters (R7, R23) -/

/-- An `RX_FEED` step stores, moves the receiver, or takes a rejection: none of these holds the parameters. -/
theorem FeedCase.cfg_eq (h : FeedCase d s t) : t.cfg = s.cfg := by
  cases h with
  | idleStart _ _ _ ht
  | lenAccept _ _ _ ht
  | dataMore _ _ _ _ _ ht
  | dataLast _ _ _ _ _ ht =>
    rw [ht, emit_cfg, setReceiver_cfg, setBuf_cfg]
  | idleReject _ _ ht => rw [ht, takeRejection_cfg]
  | lenZero _ _ ht
  | lenOversize _ _ ht
  | ckMismatch _ _ ht
  | etxReject _ _ ht =>
    rw [ht, rejectFrame_cfg]
  | ckMatch _ _ ht => rw [ht, emit_cfg, setReceiver_cfg]
  | etxAccept _ _ _ _ ht => rw [ht, emit_cfg, frameReset_cfg]

theorem EncByteCase.cfg_eq (h : EncByteCase d s t) : t.cfg = s.cfg := by
  cases h with
  | tail _ ht
  | same _ _ _ ht
  | cap _ _ _ ht
  | mismatch _ _ ht =>
    rw [ht, emit_cfg, setEnc_cfg]

theorem DecCountCase.cfg_eq (h : DecCountCase d s t) : t.cfg = s.cfg := by
  cases h with
  | run _ ht
  | streamEnd _ ht =>
    rw [ht, emit_cfg, setDec_cfg]

/-- No operation writes a parameter; RESET rebuilds the state from the parameters it finds (R250). -/
theorem WordCase.cfg_eq {w : OpWord} (h : WordCase w s t) : t.cfg = s.cfg := by
  cases h with
  | reset _ _ ht => rw [ht, setPending_cfg, resetWith_cfg]
  | feed _ _ h => exact h.cfg_eq
  | ckClear _ _ ht
  | ckFold _ _ ht =>
    rw [ht, emit_cfg, setCk_cfg]
  | encByte _ _ h => exact h.cfg_eq
  | encEnd _ _ ht => rw [ht, emit_cfg, setEnc_cfg]
  | decCount _ _ h => exact h.cfg_eq

/-- Settles O48, by the cases of a step: nothing is presented, or one operation is run at the state less its word. -/
theorem parametersNeverChange : Obligations.ParametersNeverChange := by
  intro s t h
  rcases step_cases h with ⟨_, rfl⟩ | ⟨w, ws, _, hw⟩
  · exact emit_cfg s []
  · exact hw.cfg_eq.trans (setPending_cfg s ws)

end Sys2Proof.Machine
end

section
/-! The units of the block (R24, R222): an operation moves the registers of its own unit only, gives outputs of that unit only, and reads
the registers of no other unit. -/

namespace Sys2Proof.Machine
variable {s t : State} {d : Byte} {u v : BlockUnit} {w : OpWord}

/-! ### The registers of one unit -/

/-- The state `r` with the registers of the unit `u`, and the parameters, as in `s`. -/
def State.withUnit (r : State) (u : BlockUnit) (s : State) : State :=
  match u with
  | .receiver =>
    { r with cfg := s.cfg, rxState := s.rxState, rxBuf := s.rxBuf, rxCount := s.rxCount, rxAcc := s.rxAcc }
  | .checksum => { r with cfg := s.cfg, ckAcc := s.ckAcc }
  | .encoder => { r with cfg := s.cfg, encValue := s.encValue, encCount := s.encCount, encPos := s.encPos }
  | .decoder => { r with cfg := s.cfg, decParity := s.decParity }

/-- The state `r` after the unit `u` alone has gone on as in `t`: the unit's registers and the step's outputs are those of `t`. -/
def State.withUnitStep (r : State) (u : BlockUnit) (t : State) : State := (r.withUnit u t).emit t.out

@[simp] theorem withUnit_cfg (r s : State) (u : BlockUnit) : (r.withUnit u s).cfg = s.cfg := by cases u <;> rfl

@[simp] theorem emit_view (s : State) (es : List OutEvent) (u : BlockUnit) : (s.emit es).view u = s.view u := by
  cases u <;> rfl

@[simp] theorem setPending_view (s : State) (ws : List OpWord) (u : BlockUnit) :
    (s.setPending ws).view u = s.view u := by
  cases u <;> rfl

@[simp] theorem withUnit_view_self (r s : State) (u : BlockUnit) : (r.withUnit u s).view u = s.view u := by
  cases u <;> rfl

theorem withUnit_view_ne (r s : State) (h : u ≠ v) : (r.withUnit v s).view u = r.view u := by
  revert h
  cases v <;> cases u <;> simp [State.withUnit, State.view]

/-- A state that agrees with `s` in the unit `u` and the parameters is left alone when it takes them from `s`. -/
theorem withUnit_eq_self {r : State} (hc : r.cfg = s.cfg) (hv : r.view u = s.view u) : r.withUnit u s = r := by
  cases r
  cases u <;> simp_all [State.withUnit, State.view]

/-! ### The unit of an operation code -/

@[simp] theorem concerns_reset : concerns u (opWord 0x0#4 d) = true := by cases u <;> simp [concerns]
@[simp] theorem concerns_feed : concerns u (opWord 0x1#4 d) = true ↔ u = .receiver := by cases u <;> simp [concerns]
@[simp] theorem concerns_ckClear : concerns u (opWord 0x2#4 d) = true ↔ u = .checksum := by cases u <;> simp [concerns]
@[simp] theorem concerns_ckFold : concerns u (opWord 0x3#4 d) = true ↔ u = .checksum := by cases u <;> simp [concerns]
@[simp] theorem concerns_encByte : concerns u (opWord 0x4#4 d) = true ↔ u = .encoder := by cases u <;> simp [concerns]
@[simp] theorem concerns_encEnd : concerns u (opWord 0x5#4 d) = true ↔ u = .encoder := by cases u <;> simp [concerns]
@[simp] theorem concerns_decCount : concerns u (opWord 0x6#4 d) = true ↔ u = .decoder := by cases u <;> simp [concerns]

/-- The unit an output belongs to. -/
def OutEvent.unit : OutEvent → BlockUnit
  | .reply _ => .receiver
  | .result _ => .receiver
  | .dispatch _ => .receiver
  | .count _ => .encoder
  | .run _ _ => .decoder
  | .streamEnd => .decoder

theorem emittedBy_iff {e : OutEvent} : emittedBy u e = true ↔ u = e.unit := by
  cases e <;> cases u <;> simp [emittedBy, OutEvent.unit]

/-- An output is of one unit only. -/
theorem emittedBy_unique {e : OutEvent} (hu : emittedBy u e = true) (hv : emittedBy v e = true) : u = v :=
  (emittedBy_iff.1 hu).trans (emittedBy_iff.1 hv).symm

theorem emittedBy_of_mem_dispatchEvents {p : Payload} {e : OutEvent} (h : e ∈ dispatchEvents p) :
    emittedBy .receiver e = true := by
  obtain ⟨c, _, rfl⟩ := List.mem_map.1 h
  rfl

/-! ### What an operation can touch -/

/-- From `s` to `t` no registers but those of the unit `u` moved, and every output is of `u`. -/
structure OnlyUnit (u : BlockUnit) (s t : State) : Prop where
  registers : t = s.withUnitStep u t
  outputs   : ∀ e ∈ t.out, emittedBy u e = true

theorem OnlyUnit.view_ne (h : OnlyUnit v s t) (huv : u ≠ v) : t.view u = s.view u := by
  rw [h.registers, State.withUnitStep, emit_view, withUnit_view_ne s t huv]

theorem OnlyUnit.filter_out_ne (h : OnlyUnit v s t) (huv : u ≠ v) : t.out.filter (emittedBy u) = [] :=
  List.filter_eq_nil_iff.2 fun e he hu => huv (emittedBy_unique hu (h.outputs e he))

theorem FeedCase.onlyUnit (h : FeedCase d s t) : OnlyUnit .receiver s t := by
  cases h with
  | idleStart _ _ _ ht
  | idleReject _ _ ht
  | lenAccept _ _ _ ht
  | lenZero _ _ ht
  | lenOversize _ _ ht
  | dataMore _ _ _ _ _ ht
  | dataLast _ _ _ _ _ ht
  | ckMatch _ _ ht
  | ckMismatch _ _ ht
  | etxReject _ _ ht =>
    subst ht
    exact ⟨rfl, by simp [emittedBy]⟩
  | etxAccept _ _ p _ ht =>
    subst ht
    refine ⟨rfl, fun e he => ?_⟩
    rcases List.mem_append.1 he with he | he
    · exact emittedBy_of_mem_dispatchEvents he
    · rcases List.mem_pair.1 he with rfl | rfl <;> rfl

theorem EncByteCase.onlyUnit (h : EncByteCase d s t) : OnlyUnit .encoder s t := by
  cases h with
  | tail _ ht
  | same _ _ _ ht
  | cap _ _ _ ht
  | mismatch _ _ ht =>
    subst ht
    exact ⟨rfl, by simp [emittedBy]⟩

theorem DecCountCase.onlyUnit (h : DecCountCase d s t) : OnlyUnit .decoder s t := by
  cases h with
  | run _ ht
  | streamEnd _ ht =>
    subst ht
    exact ⟨rfl, by simp [emittedBy]⟩

/-- Every word but RESET is an operation of one unit, and its step touches that unit only. -/
theorem WordCase.onlyUnit (h : WordCase w s t) :
    (∃ d, w = opWord 0x0#4 d) ∨ ∃ v, concerns v w = true ∧ OnlyUnit v s t := by
  cases h with
  | reset d hw _ => exact .inl ⟨d, hw⟩
  | feed d hw h => exact .inr ⟨.receiver, by simp [hw], h.onlyUnit⟩
  | ckClear d hw ht
  | ckFold d hw ht =>
    subst ht
    exact .inr ⟨.checksum, by simp [hw], rfl, by simp⟩
  | encByte d hw h => exact .inr ⟨.encoder, by simp [hw], h.onlyUnit⟩
  | encEnd d hw ht =>
    subst ht
    exact .inr ⟨.encoder, by simp [hw], rfl, by simp [emittedBy]⟩
  | decCount d hw h => exact .inr ⟨.decoder, by simp [hw], h.onlyUnit⟩

/-- A word of another unit leaves the unit's registers as they were and gives none of its outputs (R24). -/
theorem WordCase.frame (h : WordCase w s t) (hu : ¬ concerns u w = true) :
    t.view u = s.view u ∧ t.out.filter (emittedBy u) = [] := by
  rcases h.onlyUnit with ⟨d, rfl⟩ | ⟨v, hv, ho⟩
  · simp at hu
  · have huv : u ≠ v := fun h => hu (h ▸ hv)
    exact ⟨ho.view_ne huv, ho.filter_out_ne huv⟩

/-- Settles O49: a word that does not concern the unit is an operation of one other unit and touches only that one. -/
theorem stepTouchesOnlyTheUnitItConcerns : Obligations.StepTouchesOnlyTheUnitItConcerns :=
  fun _ _ _ _ h hu => (step_present_cases h).frame (ne_true_of_eq_false hu)

/-- What a word's step means for the receiver: RESET, a case of RX_FEED, or nothing. -/
theorem WordCase.receiver_cases (h : WordCase w s t) :
    (∃ d, w = opWord 0x0#4 d ∧ t = (State.resetWith s.cfg).setPending s.pending) ∨
    (∃ d, w = opWord 0x1#4 d ∧ FeedCase d s t) ∨
    (opOf w ≠ 0x1#4 ∧ t.view .receiver = s.view .receiver ∧ t.out.filter (emittedBy .receiver) = []) := by
  have hframe := h.frame (u := .receiver)
  cases h with
  | reset d hw ht => exact .inl ⟨d, hw, ht⟩
  | feed d hw h => exact .inr (.inl ⟨d, hw, h⟩)
  | ckClear d hw _ | ckFold d hw _ | encByte d hw _ | encEnd d hw _ | decCount d hw _ =>
    exact .inr (.inr ⟨by simp [hw], hframe (by simp [hw])⟩)

/-! ### What an operation reads -/

/-- The next state of an outcome, changed by `f`; a stop stays as it is. -/
def mapNext (f : State → State) : Outcome → Outcome
  | .next t => .next (f t)
  | .fault r => .fault r
  | .refused r => .refused r

theorem mapNext_whenGuard (f : State → State) (g : Prop) [Decidable g] (k : Outcome) :
    mapNext f (whenGuard g k) = whenGuard g (mapNext f k) := by
  unfold whenGuard
  split <;> rfl

theorem mapNext_onRead (f : State → State) (x : Except Fault Byte) (k : Byte → Outcome) :
    mapNext f (onRead x k) = onRead x fun b => mapNext f (k b) := by
  cases x <;> rfl

theorem mapNext_onPayload (f : State → State) (x : Except Fault Payload) (k : Payload → Outcome) :
    mapNext f (onPayload x k) = onPayload x fun p => mapNext f (k p) := by
  cases x <;> rfl

theorem mapNext_stopOf (f : State → State) (e : DecodeError) : mapNext f (stopOf e) = stopOf e := by
  cases e <;> rfl

section
variable (r s : State)

theorem storeByte_withReceiver (i : Nat) (b : Byte) (st : RxState) (n : Nat) (acc : Byte) :
    (r.withUnit .receiver s).storeByte i b st n acc =
      mapNext (r.withUnitStep .receiver) (s.storeByte i b st n acc) := by
  by_cases hi : i < s.cfg.rxBufCap
  · rw [storeByte_ok b st n acc hi]
    exact storeByte_ok b st n acc hi
  · rw [State.storeByte, State.storeByte, withUnit_cfg, if_neg hi, if_neg hi]
    rfl

theorem payloadByte_withReceiver (d : Byte) (cond : Nat → Nat → Prop) [∀ n L, Decidable (cond n L)] (st : RxState) :
    (r.withUnit .receiver s).payloadByte d cond st =
      mapNext (r.withUnitStep .receiver) (s.payloadByte d cond st) := by
  simp only [State.payloadByte, mapNext_whenGuard, mapNext_onRead, ← storeByte_withReceiver]
  rfl

theorem memReads_withReceiver (i n : Nat) : (r.withUnit .receiver s).memReads i n = s.memReads i n := by
  induction n generalizing i with
  | zero => rfl
  | succ n ih =>
    simp only [State.memReads, ih]
    rfl

theorem classify_withReceiver : (r.withUnit .receiver s).classify = s.classify := by
  simp only [State.classify, State.classifyRow, memReads_withReceiver, withUnit_cfg]
  rfl

/-- A case of RX_FEED reads the receiver only (R125 to R139). -/
theorem exec_withReceiver {i : Instr} (he : encode i = .opw12 (opWord 0x1#4 d)) :
    exec i (r.withUnit .receiver s) = mapNext (r.withUnitStep .receiver) (exec i s) := by
  cases i with
  | rxIdleReject _ | rxLenZero | rxLenOversize _ | rxCkMatch _ | rxCkMismatch _ | rxEtxReject _ =>
    simp only [exec, execRxIdleReject, execRxLenZero, execRxLenOversize, execRxCkMatch, execRxCkMismatch,
      execRxEtxReject, mapNext_whenGuard]
    rfl
  | rxIdleStart | rxLenAccept _ =>
    simp only [exec, execRxIdleStart, execRxLenAccept, mapNext_whenGuard, storeByte_withReceiver]
    rfl
  | rxDataMore _ | rxDataLast _ => simp only [exec, execRxDataMore, execRxDataLast, payloadByte_withReceiver]
  | rxEtxAccept =>
    simp only [exec, execRxEtxAccept, mapNext_whenGuard, mapNext_onPayload, classify_withReceiver]
    rfl
  | reserved7 _ | reserved8F _ _ => rfl
  | _ => simp [encode, opWord_inj] at he

/-- A case of ENC_BYTE reads the encoder only (R172 to R175). -/
theorem exec_withEncoder {i : Instr} (he : encode i = .opw12 (opWord 0x4#4 d)) :
    exec i (r.withUnit .encoder s) = mapNext (r.withUnitStep .encoder) (exec i s) := by
  cases i with
  | encTail _ | encMatch _ | encCap _ | encMismatch _ =>
    simp only [exec, execEncTail, execEncMatch, execEncCap, execEncMismatch, mapNext_whenGuard]
    rfl
  | reserved7 _ | reserved8F _ _ => rfl
  | _ => simp [encode, opWord_inj] at he

/-- A case of DEC_COUNT reads the decoder only (R181, R182). -/
theorem exec_withDecoder (d : Byte) :
    exec (selectDec d) (r.withUnit .decoder s) = mapNext (r.withUnitStep .decoder) (exec (selectDec d) s) := by
  unfold selectDec
  split
  · rfl
  · simp only [exec, execDecRun, mapNext_whenGuard]
    rfl

theorem selectRx_withReceiver (d : Byte) : selectRx d (r.withUnit .receiver s) = selectRx d s := rfl

theorem selectEnc_withEncoder (d : Byte) : selectEnc d (r.withUnit .encoder s) = selectEnc d s := rfl

/-- A step on a word of the unit, RESET apart, is selected and run from the unit's registers and the parameters alone. -/
theorem step_withUnit (hu : concerns u w = true) (h0 : opOf w ≠ 0x0#4) :
    step ((r.withUnit u s).present w) = mapNext (r.withUnitStep u) (step (s.present w)) := by
  rw [step_present, step_present]
  rcases decodeOp_cases s w with ⟨d, rfl, _⟩ | ⟨d, rfl, _⟩ | ⟨d, rfl, _⟩ | ⟨d, rfl, _⟩ | ⟨d, rfl, _⟩ | ⟨d, rfl, _⟩ |
    ⟨d, rfl, _⟩ | ⟨d, rfl, _⟩ | ⟨low, d, rfl, _⟩
  · simp at h0
  · obtain rfl := concerns_feed.1 hu
    simp only [decodeOp_feed, selectRx_withReceiver]
    cases hi : selectRx d s with
    | ok i => exact exec_withReceiver r s (selectRx_guard hi).2
    | error e => exact (mapNext_stopOf _ e).symm
  · obtain rfl := concerns_ckClear.1 hu
    simp only [decodeOp_ckClear]
    rfl
  · obtain rfl := concerns_ckFold.1 hu
    simp only [decodeOp_ckFold]
    rfl
  · obtain rfl := concerns_encByte.1 hu
    simp only [decodeOp_encByte, selectEnc_withEncoder]
    cases hi : selectEnc d s with
    | ok i => exact exec_withEncoder r s (selectEnc_guard hi).2
    | error e => exact (mapNext_stopOf _ e).symm
  · obtain rfl := concerns_encEnd.1 hu
    simp only [decodeOp_encEnd]
    rfl
  · obtain rfl := concerns_decCount.1 hu
    simp only [decodeOp_decCount]
    exact exec_withDecoder r s d
  · simp only [decodeOp_reserved7]
    rfl
  · simp only [decodeOp_reserved8F]
    rfl

end

/-! ### A run of one unit's operations -/

/-- Two states that the unit `u` cannot tell apart: the same parameters, and the same registers of the unit. -/
structure SameUnit (u : BlockUnit) (s r : State) : Prop where
  cfg  : r.cfg = s.cfg
  view : r.view u = s.view u

theorem sameUnit_withUnitStep (r t : State) (u : BlockUnit) : SameUnit u t (r.withUnitStep u t) :=
  ⟨by simp [State.withUnitStep], by simp [State.withUnitStep]⟩

/-- RESET leads every two states with the same parameters to states that no unit can tell apart (R250). -/
theorem step_reset_sameUnit {r : State} (hr : SameUnit u s r) (d : Byte) :
    ∃ t t', step (s.present (opWord 0x0#4 d)) = .next t ∧ step (r.present (opWord 0x0#4 d)) = .next t' ∧
      SameUnit u t t' ∧ t'.out = t.out := by
  refine ⟨_, _, step_present_ok (decodeOp_reset s d), step_present_ok (decodeOp_reset r d), ⟨?_, ?_⟩, rfl⟩
  · exact hr.cfg
  · rw [setPending_view, setPending_view, hr.cfg]

/-- From two states that the unit cannot tell apart, a word of the unit leads to two such states with the same outputs. -/
theorem step_sameUnit {r : State} (hr : SameUnit u s r) (hu : concerns u w = true)
    (h : step (s.present w) = .next t) : ∃ t', step (r.present w) = .next t' ∧ SameUnit u t t' ∧ t'.out = t.out := by
  by_cases h0 : opOf w = 0x0#4
  · obtain ⟨t₁, t', h₁, h', hs, ho⟩ := step_reset_sameUnit hr (dataOf w)
    rw [← h0, opWord_fields] at h₁ h'
    cases h.symm.trans h₁
    exact ⟨t', h', hs, ho⟩
  · refine ⟨r.withUnitStep u t, ?_, sameUnit_withUnitStep r t u, rfl⟩
    rw [← withUnit_eq_self hr.cfg hr.view, step_withUnit r s hu h0, h, withUnit_eq_self hr.cfg hr.view]
    rfl

/-- A run that completes, taken apart at its first word. -/
theorem runWords_cons_some {ws : List OpWord} {os : List (List OutEvent)} (h : runWords (w :: ws) s = some (t, os)) :
    ∃ s' os', step (s.present w) = .next s' ∧ runWords ws s' = some (t, os') ∧ os = s'.out :: os' := by
  cases hstep : step (s.present w) with
  | next s' =>
    rw [runWords_cons hstep] at h
    obtain ⟨⟨t', os'⟩, hrun, heq⟩ := Option.map_eq_some_iff.1 h
    cases heq
    exact ⟨s', os', rfl, hrun, rfl⟩
  | fault f => simp [runWords, hstep] at h
  | refused f => simp [runWords, hstep] at h

/-- The run of the unit's words alone simulates the whole run: the unit cannot tell the two states apart, and its outputs are the same.
A word of another unit is no step of the simulating run. -/
theorem runWords_filter_sameUnit {ws : List OpWord} {os : List (List OutEvent)} {r : State} (hr : SameUnit u s r)
    (h : runWords ws s = some (t, os)) :
    ∃ t' os', runWords (ws.filter (concerns u)) r = some (t', os') ∧ SameUnit u t t' ∧
      os'.flatten.filter (emittedBy u) = os.flatten.filter (emittedBy u) := by
  induction ws generalizing s r os with
  | nil =>
    cases h
    exact ⟨r, [], rfl, hr, rfl⟩
  | cons w ws ih =>
    obtain ⟨s', os', hstep, hrun, rfl⟩ := runWords_cons_some h
    cases hu : concerns u w with
    | true =>
      obtain ⟨r', hstep', hr', hout⟩ := step_sameUnit hr hu hstep
      obtain ⟨t', os'', hrun', ht', hos⟩ := ih hr' hrun
      refine ⟨t', r'.out :: os'', ?_, ht', ?_⟩
      · rw [List.filter_cons_of_pos hu, runWords_cons hstep', hrun']
        rfl
      · simp [hout, hos]
    | false =>
      have hw := step_present_cases hstep
      obtain ⟨hview, hnone⟩ := hw.frame (ne_true_of_eq_false hu)
      have hr' : SameUnit u s' r := ⟨hr.cfg.trans hw.cfg_eq.symm, hr.view.trans hview.symm⟩
      obtain ⟨t', os'', hrun', ht', hos⟩ := ih hr' hrun
      refine ⟨t', os'', ?_, ht', ?_⟩
      · rw [List.filter_cons_of_neg (by simp [hu]), hrun']
      · simp [hnone, hos]

/-- Settles O50, by the simulation of `runWords_filter_sameUnit` from one common state. -/
theorem unitsRunIndependently : Obligations.UnitsRunIndependently := by
  intro s t ws os u h
  obtain ⟨t', os', hrun, ht', hos⟩ := runWords_filter_sameUnit ⟨rfl, rfl⟩ h
  exact ⟨t', os', hrun, ht'.view, hos⟩

end Sys2Proof.Machine
end

section
/-! The invariant of the block (10_state.md R27, R28, R30, R33, R34): it holds at power-on, and every operation keeps the part of it that
speaks of its own unit. -/

namespace Sys2Proof.Machine
variable {s t : State} {d : Byte} {w : OpWord}

/-! ### The invariant reads its own unit and the parameters -/

theorem rxInv_of_sameUnit (h : SameUnit .receiver s t) (hs : s.RxInv) : t.RxInv := by
  obtain ⟨hc, hv⟩ := h
  simp only [State.view, UnitView.receiver.injEq] at hv
  obtain ⟨hst, hbuf, hcount, hacc⟩ := hv
  simpa only [State.RxInv, State.bufShape, State.accShape, State.stateRow, State.holdsFrame, hc, hst, hbuf, hcount, hacc]
    using hs

theorem encInv_of_sameUnit (h : SameUnit .encoder s t) (hs : s.EncInv) : t.EncInv := by
  obtain ⟨hc, hv⟩ := h
  simp only [State.view, UnitView.encoder.injEq] at hv
  obtain ⟨hvalue, hcount, hpos⟩ := hv
  simpa only [State.EncInv, hc, hvalue, hcount, hpos] using hs

theorem inv_of_sameUnit (hrx : SameUnit .receiver s t) (henc : SameUnit .encoder s t) (hs : s.Inv) : t.Inv := by
  obtain ⟨hvalid, hrxInv, hencInv⟩ := hs
  exact ⟨hrx.cfg ▸ hvalid, rxInv_of_sameUnit hrx hrxInv, encInv_of_sameUnit henc hencInv⟩

/-- The words still presented and the outputs are in no part of the invariant. -/
theorem inv_setPending (ws : List OpWord) (hs : s.Inv) : (s.setPending ws).Inv :=
  inv_of_sameUnit ⟨rfl, rfl⟩ ⟨rfl, rfl⟩ hs

theorem inv_emit (es : List OutEvent) (hs : s.Inv) : (s.emit es).Inv :=
  inv_of_sameUnit ⟨rfl, rfl⟩ ⟨rfl, rfl⟩ hs

/-! ### Power-on and the frame reset (R121, R252) -/

theorem rxInv_of_frameReset (hst : t.rxState = .idle) (hbuf : t.rxBuf = []) (hcount : t.rxCount = 0)
    (hacc : t.rxAcc = 0x00#8) : t.RxInv := by
  simp [State.RxInv, State.bufShape, State.accShape, State.stateRow, hst, hbuf, hcount, hacc]

theorem encInv_of_streamStart (hc : t.cfg.Valid) (hvalue : t.encValue = t.cfg.rleV0) (hcount : t.encCount = 0#8)
    (hpos : t.encPos = 0) : t.EncInv := by
  obtain ⟨_, _, _, _, _, _, _, hrec, _⟩ := hc
  refine ⟨?_, ?_, fun _ => ⟨hvalue, hpos⟩⟩
  · rw [hcount]; decide
  · rw [hpos]; exact hrec

/-- Settles O38: at power-on the receiver is as after a frame reset, and the encoder at the start of a stream. -/
theorem resetStateMeetsTheInvariant : Obligations.ResetStateMeetsTheInvariant :=
  fun _ hc => ⟨hc, rxInv_of_frameReset rfl rfl rfl rfl, encInv_of_streamStart hc rfl rfl rfl⟩

/-! ### The receiver's cases -/

/-- A byte stored at `rx_count` and folded in keeps the buffer's and the accumulator's shape (R27, R28); the row of the new state is
the rest of the invariant. -/
theorem rxInv_of_store {i n : Nat} {st : RxState} {acc : Byte} {es : List OutEvent} (hb : s.bufShape) (ha : s.accShape)
    (hi : s.rxCount = i) (hn : n = s.rxCount + 1) (hacc : acc = s.rxAcc ^^^ d)
    (hrow : (((s.setBuf (s.rxBuf.write i d)).setReceiver st n acc).emit es).stateRow) :
    (((s.setBuf (s.rxBuf.write i d)).setReceiver st n acc).emit es).RxInv := by
  have hlen : (s.rxBuf.map Prod.snd).length = s.rxCount := by
    simpa using congrArg List.length hb
  have hlayout : s.rxBuf = Memory.ofBytes 0 (s.rxBuf.map Prod.snd) :=
    Memory.eq_ofBytes (by rw [← List.range_eq_range']; exact hb)
  have hwrite : s.rxBuf.write i d = Memory.ofBytes 0 (s.rxBuf.map Prod.snd ++ [d]) := by
    rw [← Memory.write_ofBytes_end, ← hlayout, hlen, Nat.zero_add, hi]
  refine ⟨?_, ?_, hrow⟩
  · show (s.rxBuf.write i d).map Prod.fst = List.range n
    rw [hwrite, hn, Memory.map_fst_ofBytes, List.length_append, hlen, List.range_eq_range']
    rfl
  · show acc = foldXor ((s.rxBuf.write i d).map Prod.snd)
    rw [hwrite, Memory.map_snd_ofBytes, foldXor_concat, hacc, ha]

/-- A write past the length byte leaves the frame in progress as it was. -/
theorem holdsFrame_of_write {L : Byte} {a : Nat} (h : s.holdsFrame L) (ha : 2 ≤ a) (hc : t.cfg = s.cfg)
    (hbuf : t.rxBuf = s.rxBuf.write a d) : t.holdsFrame L := by
  obtain ⟨h1, hcap, hstx, hL⟩ := h
  refine ⟨h1, hc ▸ hcap, ?_, ?_⟩
  · rw [hbuf, Memory.read_write_ne _ (by omega), hstx]
  · rw [hbuf, Memory.read_write_ne _ (by omega), hL]

theorem holdsFrame_length {L L' : Byte} (h : s.holdsFrame L) (hL : s.memRead 1 = .ok L') : L = L' := by
  obtain ⟨_, _, _, hread⟩ := h
  exact Option.some.inj (hread.symm.trans (memRead_ok_iff.1 hL).2)

/-- R30: every case of RX_FEED leads to the row of the state it goes to. -/
theorem FeedCase.rxInv (h : FeedCase d s t) (hs : s.RxInv) : t.RxInv := by
  obtain ⟨hb, ha, hrow⟩ := hs
  cases h with
  | idleStart hst hd _ ht =>
    simp only [State.stateRow, hst] at hrow
    obtain ⟨hcount, _, hacc⟩ := hrow
    subst ht
    exact rxInv_of_store hb ha hcount (by rw [hcount]) (by rw [hacc]; rfl) ⟨rfl, Memory.read_write_self _ 0 stx, rfl⟩
  | idleReject _ _ ht =>
    subst ht
    exact rxInv_of_sameUnit ⟨rfl, rfl⟩ ⟨hb, ha, hrow⟩
  | lenAccept hst h1 h2 ht =>
    simp only [State.stateRow, hst] at hrow
    obtain ⟨hcount, hstx, _⟩ := hrow
    have hstx' : (s.rxBuf.write 1 d).read 0 = some stx := (Memory.read_write_ne _ (by decide) d).trans hstx
    subst ht
    exact rxInv_of_store hb ha hcount (by rw [hcount]) rfl
      ⟨d, ⟨h1, h2, hstx', Memory.read_write_self _ 1 d⟩, le_rfl, show 2 < 2 + d.toNat by omega⟩
  | lenZero _ _ ht | lenOversize _ _ ht | ckMismatch _ _ ht | etxReject _ _ ht | etxAccept _ _ _ _ ht =>
    subst ht
    exact rxInv_of_frameReset rfl rfl rfl rfl
  | dataMore hst L hL hn _ ht =>
    simp only [State.stateRow, hst] at hrow
    obtain ⟨L', hf, h2, _⟩ := hrow
    obtain rfl := holdsFrame_length hf hL
    subst ht
    exact rxInv_of_store hb ha rfl rfl rfl ⟨L', holdsFrame_of_write hf h2 rfl rfl, Nat.le_succ_of_le h2, hn⟩
  | dataLast hst L hL hn _ ht =>
    simp only [State.stateRow, hst] at hrow
    obtain ⟨L', hf, h2, _⟩ := hrow
    obtain rfl := holdsFrame_length hf hL
    subst ht
    exact rxInv_of_store hb ha rfl rfl rfl ⟨L', holdsFrame_of_write hf h2 rfl rfl, hn⟩
  | ckMatch hst _ ht =>
    simp only [State.stateRow, hst] at hrow
    subst ht
    exact ⟨hb, ha, hrow⟩

/-! ### The encoder's cases -/

theorem EncByteCase.encInv (h : EncByteCase d s t) (hc : s.cfg.Valid) (hs : s.EncInv) : t.EncInv := by
  obtain ⟨_, _, _, _, _, _, _, hrec, _⟩ := hc
  obtain ⟨hcount, hpos, hzero⟩ := hs
  have hadv : advancePos s < s.cfg.recordBytes := Nat.mod_lt _ hrec
  cases h with
  | tail hp ht =>
    subst ht
    exact ⟨hcount, hadv, fun h0 => absurd (hzero h0).2 hp⟩
  | same _ _ hlt ht =>
    subst ht
    have hle : s.encCount + 1#8 ≤ rleMaxRun := by bv_omega
    have hne : s.encCount + 1#8 ≠ 0#8 := by bv_omega
    exact ⟨hle, hadv, fun h0 => absurd h0 hne⟩
  | cap _ _ _ ht | mismatch _ _ ht =>
    subst ht
    exact ⟨(by decide : (1#8 : Byte) ≤ rleMaxRun), hadv, fun h0 => absurd (show (1#8 : Byte) = 0#8 from h0) (by decide)⟩

/-! ### Every step -/

/-- Every word's step keeps the invariant: the unit it concerns by its own cases, the others because it leaves them alone. -/
theorem WordCase.inv (h : WordCase w s t) (hs : s.Inv) : t.Inv := by
  have hcfg := h.cfg_eq
  have other : ∀ u, ¬ concerns u w = true → SameUnit u s t :=
    fun u hu => ⟨hcfg, (h.frame hu).1⟩
  obtain ⟨hc, hrx, henc⟩ := hs
  cases h with
  | reset _ _ ht =>
    subst ht
    exact inv_setPending _ (resetStateMeetsTheInvariant _ hc)
  | feed d hw h =>
    exact ⟨hcfg ▸ hc, h.rxInv hrx, encInv_of_sameUnit (other _ (by simp [hw])) henc⟩
  | ckClear d hw _ | ckFold d hw _ | decCount d hw _ =>
    exact inv_of_sameUnit (other _ (by simp [hw])) (other _ (by simp [hw])) ⟨hc, hrx, henc⟩
  | encByte d hw h =>
    exact ⟨hcfg ▸ hc, rxInv_of_sameUnit (other _ (by simp [hw])) hrx, h.encInv hc henc⟩
  | encEnd d hw ht =>
    refine ⟨hcfg ▸ hc, rxInv_of_sameUnit (other _ (by simp [hw])) hrx, ?_⟩
    subst ht
    exact encInv_of_streamStart hc rfl rfl rfl

theorem step_inv (h : step s = .next t) (hs : s.Inv) : t.Inv := by
  rcases step_cases h with ⟨_, rfl⟩ | ⟨w, ws, _, hw⟩
  · exact inv_emit [] hs
  · exact hw.inv (inv_setPending ws hs)

/-- A byte brings the receiver to ETX_NEXT only as the checksum byte that matches (R135). -/
theorem FeedCase.rxAcc_of_toEtx (h : FeedCase d s t) (hs : s.rxState ≠ .etxNext) (ht : t.rxState = .etxNext) :
    t.rxAcc = d := by
  cases h with
  | ckMatch _ hd h => rw [h, hd]; rfl
  | idleStart _ _ _ h | lenAccept _ _ _ h | dataMore _ _ _ _ _ h | dataLast _ _ _ _ _ h
  | lenZero _ _ h | lenOversize _ _ h | ckMismatch _ _ h | etxReject _ _ h | etxAccept _ _ _ _ h =>
    rw [h] at ht
    cases ht
  | idleReject _ _ h =>
    rw [h] at ht
    exact absurd ht hs

/-- R30's column of ETX_NEXT. -/
theorem WordCase.rxAcc_of_toEtx (h : WordCase w s t) (hs : s.rxState ≠ .etxNext) (ht : t.rxState = .etxNext) :
    t.rxAcc = dataOf w := by
  rcases h.receiver_cases with ⟨_, _, rfl⟩ | ⟨d, rfl, hfeed⟩ | ⟨_, hview, _⟩
  · cases ht
  · rw [hfeed.rxAcc_of_toEtx hs ht, dataOf_opWord]
  · simp only [State.view, UnitView.receiver.injEq] at hview
    exact absurd (hview.1.symm.trans ht) hs

/-- Settles O39: `step_inv`, and the one case that comes to ETX_NEXT. -/
theorem everyStepKeepsTheInvariant : Obligations.EveryStepKeepsTheInvariant :=
  ⟨fun _ _ hs h => step_inv h hs, fun _ _ _ h hs ht => (step_present_cases h).rxAcc_of_toEtx hs ht⟩

end Sys2Proof.Machine
end

section
/-! What a step outputs (10_state.md R36 to R38) and the buffer's canonical form (R26, R50). -/

namespace Sys2Proof.Machine
variable {s t : State} {d : Byte} {w : OpWord}

/-! ### The streams of an output list -/

@[simp] theorem repliesOf_append (es fs : List OutEvent) : repliesOf (es ++ fs) = repliesOf es ++ repliesOf fs := by
  induction es with
  | nil => rfl
  | cons e es ih => cases e <;> simp [repliesOf, ih]

@[simp] theorem resultsOf_append (es fs : List OutEvent) : resultsOf (es ++ fs) = resultsOf es ++ resultsOf fs := by
  induction es with
  | nil => rfl
  | cons e es ih => cases e <;> simp [resultsOf, ih]

@[simp] theorem dispatchesOf_append (es fs : List OutEvent) :
    dispatchesOf (es ++ fs) = dispatchesOf es ++ dispatchesOf fs := by
  induction es with
  | nil => rfl
  | cons e es ih => cases e <;> simp [dispatchesOf, ih]

theorem repliesOf_map_dispatch (cs : List DisplayCall) : repliesOf (cs.map .dispatch) = [] := by
  induction cs with
  | nil => rfl
  | cons c cs ih => exact ih

theorem resultsOf_map_dispatch (cs : List DisplayCall) : resultsOf (cs.map .dispatch) = [] := by
  induction cs with
  | nil => rfl
  | cons c cs ih => exact ih

theorem dispatchesOf_map_dispatch (cs : List DisplayCall) : dispatchesOf (cs.map .dispatch) = cs := by
  induction cs with
  | nil => rfl
  | cons c cs ih => exact congrArg (c :: ·) ih

@[simp] theorem repliesOf_dispatchEvents (p : Payload) : repliesOf (dispatchEvents p) = [] :=
  repliesOf_map_dispatch _

@[simp] theorem resultsOf_dispatchEvents (p : Payload) : resultsOf (dispatchEvents p) = [] :=
  resultsOf_map_dispatch _

@[simp] theorem dispatchesOf_dispatchEvents (p : Payload) : dispatchesOf (dispatchEvents p) = dispatchCalls p :=
  dispatchesOf_map_dispatch _

/-- Results are outputs of the receiver. -/
theorem resultsOf_filter_receiver (es : List OutEvent) : resultsOf (es.filter (emittedBy .receiver)) = resultsOf es := by
  induction es with
  | nil => rfl
  | cons e es ih => cases e <;> simp [List.filter_cons, emittedBy, resultsOf, ih]

/-- Display calls are outputs of the receiver. -/
theorem dispatchesOf_filter_receiver (es : List OutEvent) :
    dispatchesOf (es.filter (emittedBy .receiver)) = dispatchesOf es := by
  induction es with
  | nil => rfl
  | cons e es ih => cases e <;> simp [List.filter_cons, emittedBy, dispatchesOf, ih]

/-! ### The buffer (R26, R50) -/

theorem FeedCase.buf_wf (h : FeedCase d s t) (hs : s.rxBuf.wf) : t.rxBuf.wf := by
  cases h with
  | idleStart _ _ _ ht | lenAccept _ _ _ ht | dataMore _ _ _ _ _ ht | dataLast _ _ _ _ _ ht =>
    subst ht
    exact Memory.wf_write hs _ _
  | lenZero _ _ ht | lenOversize _ _ ht | ckMismatch _ _ ht | etxReject _ _ ht | etxAccept _ _ _ _ ht =>
    subst ht
    exact Memory.wf_nil
  | idleReject _ _ ht | ckMatch _ _ ht =>
    subst ht
    exact hs

theorem WordCase.buf_wf (h : WordCase w s t) (hs : s.rxBuf.wf) : t.rxBuf.wf := by
  rcases h.receiver_cases with ⟨_, _, rfl⟩ | ⟨d, _, hfeed⟩ | ⟨_, hview, _⟩
  · exact Memory.wf_nil
  · exact hfeed.buf_wf hs
  · simp only [State.view, UnitView.receiver.injEq] at hview
    obtain ⟨_, hbuf, _, _⟩ := hview
    rwa [hbuf]

/-- Settles O42: a step writes one entry, empties the buffer, or leaves it alone. -/
theorem everyStepKeepsTheBufferCanonical : Obligations.EveryStepKeepsTheBufferCanonical := by
  intro s t hs h
  rcases step_cases h with ⟨_, rfl⟩ | ⟨w, ws, _, hw⟩
  · exact hs
  · exact hw.buf_wf hs

/-! ### Replies and results (R36, R37) -/

/-- Settles O44, instruction by instruction: the next state's outputs stand in its inversion lemma, and dispatch gives no reply. -/
theorem repliesAreAckOrNakAtMostOnce : Obligations.RepliesAreAckOrNakAtMostOnce := by
  intro i s t h
  cases i with
  | reset d => obtain rfl := execReset_next (d := d) h; rfl
  | rxIdleStart => obtain ⟨_, _, rfl⟩ := execRxIdleStart_next h; rfl
  | rxIdleReject d => obtain ⟨_, rfl⟩ := execRxIdleReject_next h; rfl
  | rxLenAccept d => obtain ⟨_, _, rfl⟩ := execRxLenAccept_next h; rfl
  | rxLenZero => obtain ⟨_, rfl⟩ := execRxLenZero_next h; rfl
  | rxLenOversize d => obtain ⟨_, rfl⟩ := execRxLenOversize_next h; rfl
  | rxDataMore d => obtain ⟨_, _, _, _, _, rfl⟩ := execRxDataMore_next h; rfl
  | rxDataLast d => obtain ⟨_, _, _, _, _, rfl⟩ := execRxDataLast_next h; rfl
  | rxCkMatch d => obtain ⟨_, rfl⟩ := execRxCkMatch_next h; rfl
  | rxCkMismatch d => obtain ⟨_, rfl⟩ := execRxCkMismatch_next h; rfl
  | rxEtxAccept =>
    obtain ⟨_, p, _, rfl⟩ := execRxEtxAccept_next h
    simp [repliesOf, rejecting]
  | rxEtxReject d => obtain ⟨_, rfl⟩ := execRxEtxReject_next h; rfl
  | ckClear d => obtain rfl := execCkClear_next (d := d) h; rfl
  | ckFold d => obtain rfl := execCkFold_next h; rfl
  | encTail d => obtain ⟨_, rfl⟩ := execEncTail_next (d := d) h; rfl
  | encMatch d => obtain ⟨_, rfl⟩ := execEncMatch_next h; rfl
  | encCap d => obtain ⟨_, rfl⟩ := execEncCap_next h; rfl
  | encMismatch d => obtain ⟨_, rfl⟩ := execEncMismatch_next h; rfl
  | encEnd d => obtain rfl := execEncEnd_next (d := d) h; rfl
  | decRun d => obtain ⟨_, rfl⟩ := execDecRun_next h; rfl
  | decEnd => obtain rfl := execDecEnd_next h; rfl
  | reserved7 d | reserved8F low d => cases h
  | frameCmdRow | frameCmdRefresh | frameCmdUndefined cmd =>
    obtain ⟨_, _, p, _, _, _, rfl⟩ := dispatchCommand_next h
    exact repliesOf_dispatchEvents p

theorem FeedCase.results_length (h : FeedCase d s t) : (resultsOf t.out).length = 1 := by
  cases h with
  | idleStart _ _ _ ht | lenAccept _ _ _ ht | dataMore _ _ _ _ _ ht | dataLast _ _ _ _ _ ht | idleReject _ _ ht
  | lenZero _ _ ht | lenOversize _ _ ht | ckMatch _ _ ht | ckMismatch _ _ ht | etxReject _ _ ht =>
    rw [ht]
    rfl
  | etxAccept _ _ p _ ht =>
    rw [ht, emit_out, resultsOf_append, resultsOf_dispatchEvents]
    rfl

/-- Settles O45: every case of RX_FEED gives one result, and the other units and RESET give none. -/
theorem everyFeedGivesOneResult : Obligations.EveryFeedGivesOneResult := by
  intro s t w h
  rcases (step_present_cases h).receiver_cases with ⟨d, rfl, rfl⟩ | ⟨d, rfl, hfeed⟩ | ⟨hop, _, hout⟩
  · simp [resultsOf]
  · simp [hfeed.results_length]
  · rw [if_neg hop, ← resultsOf_filter_receiver, hout]
    rfl

/-! ### Display calls (R38) -/

theorem setPixel_mem_setPixels {x y x₀ y₀ : Nat} {l : Bool} {ls : List Bool} (h : .setPixel x y l ∈ setPixels y₀ x₀ ls) :
    y = y₀ ∧ x < x₀ + ls.length := by
  induction ls generalizing x₀ with
  | nil => cases h
  | cons l' ls ih =>
    rw [List.length_cons]
    rcases List.mem_cons.1 h with heq | h
    · cases heq
      exact ⟨rfl, by omega⟩
    · obtain ⟨hy, hx⟩ := ih h
      exact ⟨hy, by omega⟩

theorem rowLevels_length (bits : List Byte) : (rowLevels bits).length = 8 * bits.length := by
  induction bits with
  | nil => rfl
  | cons b bits ih =>
    simp only [rowLevels, List.flatMap_cons, List.length_append, List.length_cons] at ih ⊢
    rw [ih, show (byteLevels b).length = 8 from rfl]
    omega

/-- Only a row's dispatch sets pixels: in the row it names, one for each bit of its bytes. -/
theorem setPixel_mem_dispatchCalls {x y : Nat} {l : Bool} {p : Payload} (h : .setPixel x y l ∈ dispatchCalls p) :
    ∃ r bits, p = .row r bits ∧ y = r.toNat ∧ x < 8 * bits.length := by
  cases p with
  | row r bits =>
    obtain ⟨hy, hx⟩ := setPixel_mem_setPixels h
    exact ⟨r, bits, rfl, hy, by rwa [rowLevels_length, Nat.zero_add] at hx⟩
  | refresh => simp [dispatchCalls] at h
  | unrecognized cmd len why => cases h

theorem memReads_length {i n : Nat} {bs : List Byte} (h : s.memReads i n = .ok bs) : bs.length = n := by
  induction n generalizing i bs with
  | zero => cases h; rfl
  | succ n ih =>
    cases hb : s.memRead i with
    | error f => simp [State.memReads, hb] at h
    | ok b =>
      cases hbs : s.memReads (i + 1) n with
      | error f => simp [State.memReads, hb, hbs] at h
      | ok bs' =>
        obtain rfl : b :: bs' = bs := by simpa [State.memReads, hb, hbs] using h
        exact congrArg (· + 1) (ih hbs)

/-- R150: a row that is dispatched lies on the display and has the bytes of a whole row. -/
theorem classifyRow_row {L cmd r : Byte} {bits : List Byte} (h : s.classifyRow L cmd = .ok (.row r bits)) :
    r.toNat < s.cfg.height ∧ bits.length = s.cfg.wb := by
  unfold State.classifyRow at h
  by_cases hshort : L.toNat < 2 + s.cfg.wb
  · simp [hshort] at h
  · cases hr : s.memRead 3 with
    | error f => simp [hshort, hr] at h
    | ok r' =>
      by_cases hrange : s.cfg.height ≤ r'.toNat
      · simp [hshort, hr, hrange] at h
      · cases hbits : s.memReads 4 s.cfg.wb with
        | error f => simp [hshort, hr, hrange, hbits] at h
        | ok bits' =>
          obtain ⟨rfl, rfl⟩ : r' = r ∧ bits' = bits := by simpa [hshort, hr, hrange, hbits] using h
          exact ⟨Nat.lt_of_not_le hrange, memReads_length hbits⟩

theorem classify_row {r : Byte} {bits : List Byte} (h : s.classify = .ok (.row r bits)) :
    r.toNat < s.cfg.height ∧ bits.length = s.cfg.wb := by
  unfold State.classify at h
  cases hL : s.memRead 1 with
  | error f => simp [hL] at h
  | ok L =>
    cases hcmd : s.memRead 2 with
    | error f => simp [hL, hcmd] at h
    | ok cmd =>
      by_cases hrow : cmd = cmdRow
      · exact classifyRow_row (by simpa [hL, hcmd, hrow] using h)
      · by_cases hrefresh : cmd = cmdRefresh <;> simp [hL, hcmd, hrow, hrefresh] at h

/-- The pixels of a classified frame lie on the display. -/
theorem pixel_on_display {p : Payload} {x y : Nat} {l : Bool} (hc : s.cfg.Valid) (hp : s.classify = .ok p)
    (h : .setPixel x y l ∈ dispatchCalls p) : x < s.cfg.width ∧ y < s.cfg.height := by
  obtain ⟨r, bits, rfl, rfl, hx⟩ := setPixel_mem_dispatchCalls h
  obtain ⟨hr, hlen⟩ := classify_row hp
  obtain ⟨hmod, _⟩ := hc
  have hwb : s.cfg.wb = s.cfg.width / 8 := rfl
  exact ⟨by omega, hr⟩

/-- Of the cases of RX_FEED only the accepting one calls the display, with the calls of the payload it classified (R138). -/
theorem FeedCase.dispatch_mem {c : DisplayCall} (h : FeedCase d s t) (hm : c ∈ dispatchesOf t.out) :
    s.rxState = .etxNext ∧ d = etx ∧ ∃ p, s.classify = .ok p ∧ c ∈ dispatchCalls p := by
  cases h with
  | etxAccept hst hd p hp ht =>
    rw [ht, emit_out, dispatchesOf_append, dispatchesOf_dispatchEvents] at hm
    exact ⟨hst, hd, p, hp, by simpa [dispatchesOf] using hm⟩
  | idleStart _ _ _ ht | lenAccept _ _ _ ht | dataMore _ _ _ _ _ ht | dataLast _ _ _ _ _ ht | idleReject _ _ ht
  | lenZero _ _ ht | lenOversize _ _ ht | ckMatch _ _ ht | ckMismatch _ _ ht | etxReject _ _ ht =>
    rw [ht] at hm
    cases hm

theorem WordCase.dispatch_mem {c : DisplayCall} (h : WordCase w s t) (hm : c ∈ dispatchesOf t.out) :
    s.rxState = .etxNext ∧ w = opWord 0x1#4 etx ∧ ∃ p, s.classify = .ok p ∧ c ∈ dispatchCalls p := by
  rcases h.receiver_cases with ⟨d, _, rfl⟩ | ⟨d, rfl, hfeed⟩ | ⟨_, _, hout⟩
  · cases hm
  · obtain ⟨hst, rfl, hp⟩ := hfeed.dispatch_mem hm
    exact ⟨hst, rfl, hp⟩
  · rw [← dispatchesOf_filter_receiver, hout] at hm
    cases hm

/-- Settles O47: the word is the end marker in ETX_NEXT, and the calls are those of a classified row of the display's width. -/
theorem displayCallsStayOnTheDisplay : Obligations.DisplayCallsStayOnTheDisplay := by
  intro s t c hs h hm
  obtain ⟨hvalid, _, _⟩ := hs
  rcases step_cases h with ⟨_, rfl⟩ | ⟨w, ws, hpending, hw⟩
  · cases hm
  · obtain ⟨hst, rfl, p, hp, hc⟩ := hw.dispatch_mem hm
    refine ⟨⟨hst, ws, hpending⟩, ?_⟩
    rintro x y level rfl
    exact pixel_on_display (s := s.setPending ws) hvalid hp hc

end Sys2Proof.Machine
end

section
/-! The receive buffer (20_memory.md R50 to R53): which reads fault, that no step from a state of the invariant faults, and where a step
writes. -/

namespace Sys2Proof.Machine
variable {s t : State} {d : Byte} {w : OpWord} {a i : Nat}

/-! ### The faults of a read (R53) -/

theorem memRead_unwritten (hi : i < s.cfg.rxBufCap) (h : s.rxBuf.read i = none) :
    s.memRead i = .error (.unwrittenRead i) := by
  rw [State.memRead, if_pos hi, h]

theorem memRead_outside (hi : s.cfg.rxBufCap ≤ i) : s.memRead i = .error (.outsideBuffer i) :=
  if_neg (Nat.not_lt.2 hi)

/-- Settles O41: the two ways a read ends without a byte. -/
theorem unwrittenReadFaults : Obligations.UnwrittenReadFaults :=
  fun _ _ => ⟨memRead_unwritten, memRead_outside⟩

/-! ### The reads that a frame in progress allows (R27, R122) -/

/-- R27: entry `i` below `rx_count` holds byte `i` of the frame, and the others hold none. -/
theorem read_of_bufShape (hb : s.bufShape) (i : Nat) : s.rxBuf.read i = (s.rxBuf.map Prod.snd)[i]? := by
  have hlayout : s.rxBuf = Memory.ofBytes 0 (s.rxBuf.map Prod.snd) :=
    Memory.eq_ofBytes (by rw [← List.range_eq_range']; exact hb)
  calc s.rxBuf.read i = (Memory.ofBytes 0 (s.rxBuf.map Prod.snd)).read i := by rw [← hlayout]
    _ = (s.rxBuf.map Prod.snd)[i]? := by rw [Memory.read_ofBytes, if_pos (Nat.zero_le i), Nat.sub_zero]

theorem bufBytes_length (hb : s.bufShape) : (s.rxBuf.map Prod.snd).length = s.rxCount := by
  simpa using congrArg List.length hb

theorem memRead_of_bufShape (hb : s.bufShape) (hi : i < s.rxCount) (hcap : s.rxCount ≤ s.cfg.rxBufCap) :
    ∃ b, s.memRead i = .ok b := by
  have hlt : i < (s.rxBuf.map Prod.snd).length := by rwa [bufBytes_length hb]
  exact ⟨_, memRead_ok (hi.trans_le hcap) ((read_of_bufShape hb i).trans (List.getElem?_eq_getElem hlt))⟩

theorem memReads_of_bufShape {n : Nat} (hb : s.bufShape) (hi : i + n ≤ s.rxCount) (hcap : s.rxCount ≤ s.cfg.rxBufCap) :
    ∃ bs, s.memReads i n = .ok bs := by
  have hlen := bufBytes_length hb
  refine ⟨((s.rxBuf.map Prod.snd).drop i).take n, memReads_ok (hi.trans hcap) ?_ fun j hj => ?_⟩
  · rw [List.length_take, List.length_drop, hlen]
    omega
  · rw [read_of_bufShape hb, List.getElem?_take_of_lt hj, List.getElem?_drop]

/-- R150 reads only entries of the complete frame: the row's bytes only where the length covers them. -/
theorem classifyRow_ok {L cmd : Byte} (hb : s.bufShape) (hcount : s.rxCount = 2 + L.toNat)
    (hcap : s.rxCount ≤ s.cfg.rxBufCap) : ∃ p, s.classifyRow L cmd = .ok p := by
  by_cases hshort : L.toNat < 2 + s.cfg.wb
  · exact ⟨_, if_pos hshort⟩
  · obtain ⟨r, hr⟩ := memRead_of_bufShape (i := 3) hb (by omega) hcap
    obtain ⟨bits, hbits⟩ := memReads_of_bufShape (i := 4) (n := s.cfg.wb) hb (by omega) hcap
    by_cases hrange : s.cfg.height ≤ r.toNat
    · exact ⟨.unrecognized cmd L .rowOutOfRange, by simp [State.classifyRow, hshort, hr, hrange]⟩
    · exact ⟨.row r bits, by simp [State.classifyRow, hshort, hr, hrange, hbits]⟩

/-- R122: a frame whose checksum was verified is classified without a fault. -/
theorem classify_ok (hs : s.RxInv) (hst : s.rxState = .etxNext) : ∃ p, s.classify = .ok p := by
  obtain ⟨hb, _, hrow⟩ := hs
  simp only [State.stateRow, hst] at hrow
  obtain ⟨L, ⟨h1, hfits, _, hread⟩, hcount⟩ := hrow
  have hcap : s.rxCount ≤ s.cfg.rxBufCap := hcount ▸ hfits
  have hL : s.memRead 1 = .ok L := memRead_ok (by omega) hread
  obtain ⟨cmd, hcmd⟩ := memRead_of_bufShape (i := 2) hb (by omega) hcap
  by_cases hcmdRow : cmd = cmdRow
  · obtain ⟨p, hp⟩ := classifyRow_ok (cmd := cmd) hb hcount hcap
    exact ⟨p, by simpa [State.classify, hL, hcmd, hcmdRow] using hp⟩
  · by_cases hrefresh : cmd = cmdRefresh
    · exact ⟨.refresh, by simp [State.classify, hL, hcmd, hrefresh]⟩
    · exact ⟨.unrecognized cmd L .unknownCommand, by simp [State.classify, hL, hcmd, hcmdRow, hrefresh]⟩

/-! ### Every word selects a case (R73) -/

/-- R30: in DATA_NEXT the length byte is readable, and the payload is not complete. -/
theorem dataNext_length (hs : s.RxInv) (hst : s.rxState = .dataNext) :
    ∃ L, s.memRead 1 = .ok L ∧ 2 ≤ s.rxCount ∧ s.rxCount < 2 + L.toNat ∧ 2 + L.toNat ≤ s.cfg.rxBufCap := by
  obtain ⟨_, _, hrow⟩ := hs
  simp only [State.stateRow, hst] at hrow
  obtain ⟨L, ⟨_, hfits, _, hread⟩, h2, hlt⟩ := hrow
  exact ⟨L, memRead_ok (by omega) hread, h2, hlt, hfits⟩

theorem selectRx_ok (d : Byte) (hs : s.RxInv) : ∃ i, selectRx d s = .ok i := by
  unfold selectRx
  cases hst : s.rxState with
  | idle | lengthNext | checksumNext | etxNext => exact ⟨_, rfl⟩
  | dataNext =>
    obtain ⟨L, hL, _, hlt, _⟩ := dataNext_length hs hst
    by_cases hmore : s.rxCount + 1 < 2 + L.toNat
    · exact ⟨.rxDataMore d, by simp only [hL, if_pos hmore]⟩
    · have hlast : s.rxCount + 1 = 2 + L.toNat := by omega
      exact ⟨.rxDataLast d, by simp only [hL, if_neg hmore, if_pos hlast]⟩

/-- R33: a count that is not below the largest run count is that count. -/
theorem selectEnc_ok (d : Byte) (hs : s.EncInv) : ∃ i, selectEnc d s = .ok i := by
  obtain ⟨hmax, _, _⟩ := hs
  unfold selectEnc
  split_ifs with hpos hvalue hlt heq
  · exact ⟨_, rfl⟩
  · exact ⟨_, rfl⟩
  · exact ⟨_, rfl⟩
  · exact ⟨_, rfl⟩
  · exact absurd (BitVec.le_antisymm hmax (BitVec.not_lt.1 hlt)) heq

theorem decodeOp_ok (w : OpWord) (hs : s.Inv) : ∃ i, decodeOp w s = .ok i := by
  obtain ⟨_, hrx, henc⟩ := hs
  rcases decodeOp_cases s w with ⟨d, _, e⟩ | ⟨d, _, e⟩ | ⟨d, _, e⟩ | ⟨d, _, e⟩ | ⟨d, _, e⟩ | ⟨d, _, e⟩ | ⟨d, _, e⟩ |
    ⟨d, _, e⟩ | ⟨low, d, _, e⟩
  case inr.inl => exact e ▸ selectRx_ok d hrx
  case inr.inr.inr.inr.inl => exact e ▸ selectEnc_ok d henc
  all_goals exact ⟨_, e⟩

/-! ### A selected case runs (R53, R72) -/

theorem payloadByte_of_dataNext {cond : Nat → Nat → Prop} [∀ n L, Decidable (cond n L)] {st : RxState} (hs : s.RxInv)
    (hst : s.rxState = .dataNext) (hc : ∃ L ∈ s.rxBuf.read 1, cond s.rxCount L.toNat) :
    ∃ t, s.payloadByte d cond st = .next t := by
  obtain ⟨L, hL, _, hlt, hfits⟩ := dataNext_length hs hst
  obtain ⟨L', hL', hc⟩ := hc
  obtain rfl : L = L' := Option.some.inj ((memRead_ok_iff.1 hL).2.symm.trans hL')
  exact ⟨_, payloadByte_ok hst hL hc (hlt.trans_le hfits)⟩

theorem dispatchCommand_of_guard {codes : Byte → Prop} [DecidablePred codes] (hs : s.Inv) (hg : frameCmdGuard codes s) :
    ∃ t, s.dispatchCommand codes = .next t := by
  obtain ⟨⟨_, _, _, _, _, hcap, _⟩, hrx, _⟩ := hs
  obtain ⟨hst, c, hread, hc⟩ := hg
  obtain ⟨p, hp⟩ := classify_ok hrx hst
  exact ⟨_, dispatchCommand_ok hst (memRead_ok (by omega) hread) hc hp⟩

/-- The codes of RESERVED.8-F lie above 7. -/
theorem seven_le_reserved8F (low : BitVec 3) : 7 ≤ (1#1 ++ low).toNat := by revert low; decide

/-- In a state of the invariant an instruction whose guard holds goes on, or is reserved and refused with the fields of its word. -/
theorem exec_of_guard {i : Instr} (hs : s.Inv) (hg : caseGuard i s) :
    (∃ t, exec i s = .next t) ∨
    ∃ op d, encode i = .opw12 (opWord op d) ∧ 7 ≤ op.toNat ∧ exec i s = .refused (.reservedOperation op d) := by
  have ⟨⟨_, _, _, _, _, hcap, _⟩, hrx, _⟩ := hs
  cases i with
  | reset _ | ckClear _ | ckFold _ | encEnd _ | decEnd => exact .inl ⟨_, rfl⟩
  | rxIdleReject _ | rxLenZero | rxLenOversize _ | rxCkMatch _ | rxCkMismatch _ | rxEtxReject _
  | encTail _ | encMatch _ | encCap _ | encMismatch _ | decRun _ =>
    exact .inl ⟨_, whenGuard_pos (by exact hg) _⟩
  | rxIdleStart => exact .inl ⟨_, (whenGuard_pos (g := idleStartGuard stx s) hg _).trans (storeByte_ok _ _ _ _ (by omega))⟩
  | rxLenAccept d => exact .inl ⟨_, (whenGuard_pos (g := lenAcceptGuard d s) hg _).trans (storeByte_ok _ _ _ _ (by omega))⟩
  | rxDataMore d => exact .inl (payloadByte_of_dataNext (cond := fun n L => n + 1 < 2 + L) hrx hg.1 hg.2)
  | rxDataLast d => exact .inl (payloadByte_of_dataNext (cond := fun n L => n + 1 = 2 + L) hrx hg.1 hg.2)
  | rxEtxAccept =>
    obtain ⟨p, hp⟩ := classify_ok hrx hg.1
    exact .inl ⟨_, (whenGuard_pos (g := etxAcceptGuard etx s) hg _).trans (congrArg (onPayload · _) hp)⟩
  | frameCmdRow | frameCmdRefresh | frameCmdUndefined _ => exact .inl (dispatchCommand_of_guard hs hg)
  | reserved7 d => exact .inr ⟨0x7#4, d, rfl, le_rfl, rfl⟩
  | reserved8F low d => exact .inr ⟨1#1 ++ low, d, rfl, seven_le_reserved8F low, rfl⟩

/-- Settles O40: the word presented first selects a case (`decodeOp_ok`) whose guard holds, and that case runs (`exec_of_guard`). -/
theorem onlyReservedWordsStopAStep : Obligations.OnlyReservedWordsStopAStep := by
  intro s hs
  cases hp : s.pending with
  | nil => exact .inl ⟨_, step_nil hp⟩
  | cons w ws =>
    obtain ⟨i, hi⟩ := decodeOp_ok w hs
    have hstep : step s = exec i (s.setPending ws) := by rw [step_cons hp, hi]
    obtain ⟨hg, hw⟩ := decodeOp_guard (s := s.setPending ws) hi
    rcases exec_of_guard (inv_setPending ws hs) hg with ⟨t, ht⟩ | ⟨op, d, he, hop, ht⟩
    · exact .inl ⟨t, hstep.trans ht⟩
    · obtain rfl : opWord op d = w := CodeWord.opw12.inj (he.symm.trans hw)
      exact .inr ⟨_, ws, hp, by rwa [opOf_opWord], by rw [opOf_opWord, dataOf_opWord, hstep, ht]⟩

/-! ### Where a step writes (R52) -/

theorem Memory.eq_of_read_write_ne {m : Memory} {v : Byte} (h : (m.write i v).read a ≠ m.read a) : a = i :=
  by_contra fun hne => h (Memory.read_write_ne m hne v)

/-- A byte that changes an entry was stored at `rx_count`, or its case emptied the buffer. -/
theorem FeedCase.buf_write (h : FeedCase d s t) (hs : s.RxInv) (ha : t.rxBuf.read a ≠ s.rxBuf.read a) :
    (∀ b, t.rxBuf.read b = none) ∨
    a = s.rxCount ∧ a < s.cfg.rxBufCap ∧ t.rxBuf.read a = some d ∧
      (s.rxState = .idle ∧ a = 0 ∨ s.rxState = .lengthNext ∧ a = 1 ∨
        s.rxState = .dataNext ∧ ∃ L, s.rxBuf.read 1 = some L ∧ 2 ≤ a ∧ a ≤ 2 + L.toNat - 1) := by
  cases h with
  | idleStart hst hd hc ht =>
    obtain ⟨_, _, hrow⟩ := hs
    simp only [State.stateRow, hst] at hrow
    subst ht hd
    obtain rfl := Memory.eq_of_read_write_ne ha
    exact .inr ⟨hrow.1.symm, hc, Memory.read_write_self _ _ _, .inl ⟨hst, rfl⟩⟩
  | lenAccept hst h1 h2 ht =>
    obtain ⟨_, _, hrow⟩ := hs
    simp only [State.stateRow, hst] at hrow
    subst ht
    obtain rfl := Memory.eq_of_read_write_ne ha
    exact .inr ⟨hrow.1.symm, by omega, Memory.read_write_self _ _ _, .inr (.inl ⟨hst, rfl⟩)⟩
  | dataMore hst _ _ _ hc ht | dataLast hst _ _ _ hc ht =>
    obtain ⟨L, hL, h2, hlt, _⟩ := dataNext_length hs hst
    subst ht
    obtain rfl := Memory.eq_of_read_write_ne ha
    exact .inr ⟨rfl, hc, Memory.read_write_self _ _ _, .inr (.inr ⟨hst, L, (memRead_ok_iff.1 hL).2, h2, by omega⟩)⟩
  | lenZero _ _ ht | lenOversize _ _ ht | ckMismatch _ _ ht | etxReject _ _ ht | etxAccept _ _ _ _ ht =>
    subst ht
    exact .inl Memory.read_nil
  | idleReject _ _ ht | ckMatch _ _ ht =>
    subst ht
    exact absurd rfl ha

/-- Settles O43: only RESET and RX_FEED touch the buffer; RESET empties it, and `FeedCase.buf_write` says what RX_FEED does. -/
theorem bufferIsWrittenOnlyAtRxCount : Obligations.BufferIsWrittenOnlyAtRxCount := by
  intro s t a hs h ha
  rcases step_cases h with ⟨_, rfl⟩ | ⟨w, ws, hp, hw⟩
  · exact absurd rfl ha
  · obtain ⟨_, hrx, _⟩ := inv_setPending ws hs
    rcases hw.receiver_cases with ⟨_, _, rfl⟩ | ⟨d, rfl, hfeed⟩ | ⟨_, hview, _⟩
    · exact .inl Memory.read_nil
    · refine (hfeed.buf_write hrx ha).imp_right fun hwrite => ⟨_, ws, hp, opOf_opWord _ _, ?_⟩
      rwa [dataOf_opWord]
    · simp only [State.view, UnitView.receiver.injEq] at hview
      obtain ⟨_, hbuf, _, _⟩ := hview
      exact absurd (congrArg (Memory.read · a) hbuf) ha

end Sys2Proof.Machine
end

section
/-! The operation words and their cases (30_encoding.md R70 to R73): the fields of a word, the reserved codes, and that the guards tell the
cases of one operation apart, so that decoding inverts encoding. -/

namespace Sys2Proof.Machine
variable {s : State} {d : Byte} {w : OpWord} {i : Instr}

/-! ### A guard and an encoding determine the case (R73) -/

/-- What a guard asks of the data byte is what the row's well-formedness asks; the smallest capacity, 5, bounds an oversize length. -/
theorem wellFormed_of_guard (hc : s.cfg.Valid) (hg : caseGuard i s) : i.WellFormed := by
  obtain ⟨_, hwidth, _, _, _, hcap, _⟩ := hc
  cases i with
  | rxIdleReject _ | rxEtxReject _ => exact hg.2
  | rxLenAccept _ => exact hg.2.1
  | rxLenOversize d =>
    obtain ⟨_, hover⟩ := hg
    have hwb : 1 ≤ s.cfg.wb := (Nat.one_le_div_iff (by omega)).2 hwidth
    show 4 ≤ d.toNat
    omega
  | decRun _ => exact hg
  | frameCmdUndefined _ =>
    obtain ⟨_, _, _, rfl, hundefined⟩ := hg
    exact hundefined
  | reset _ | rxIdleStart | rxLenZero | rxDataMore _ | rxDataLast _ | rxCkMatch _ | rxCkMismatch _ | rxEtxAccept
  | ckClear _ | ckFold _ | encTail _ | encMatch _ | encCap _ | encMismatch _ | encEnd _ | decEnd | reserved7 _
  | reserved8F _ _ | frameCmdRow | frameCmdRefresh => trivial

/-- In DATA_NEXT the case of a byte depends on how the count stands to the declared length (R132, R133). -/
theorem selectRx_dataNext {L : Byte} (hst : s.rxState = .dataNext) (hL : s.memRead 1 = .ok L) :
    selectRx d s =
      if s.rxCount + 1 < 2 + L.toNat then .ok (.rxDataMore d)
      else if s.rxCount + 1 = 2 + L.toNat then .ok (.rxDataLast d)
      else .error .noCase := by
  simp only [selectRx, hst, hL]

/-- The decoder answers every instruction whose guard holds: the guards of one operation exclude each other. -/
theorem decode_encode_of_guard (hc : s.cfg.Valid) (hg : caseGuard i s) : decode (encode i) s = .ok i := by
  have hwf := wellFormed_of_guard hc hg
  obtain ⟨_, _, _, _, _, hcap, _⟩ := hc
  cases i with
  | reset d => exact decodeOp_reset s d
  | ckClear d => exact decodeOp_ckClear s d
  | ckFold d => exact decodeOp_ckFold s d
  | encEnd d => exact decodeOp_encEnd s d
  | reserved7 d => exact decodeOp_reserved7 s d
  | reserved8F low d => exact decodeOp_reserved8F s d low
  | rxIdleStart | rxIdleReject _ | rxEtxAccept | rxEtxReject _ | rxCkMatch _ | rxCkMismatch _ | rxLenZero =>
    obtain ⟨hst, hd⟩ := hg
    simp [decode, encode, selectRx, hst, hd]
  | rxLenAccept d =>
    obtain ⟨hst, hpos, hfits⟩ := hg
    have hd : d ≠ 0x00#8 := by rintro rfl; exact absurd hpos (by decide)
    simp [decode, encode, selectRx, hst, hd, hfits]
  | rxLenOversize d =>
    obtain ⟨hst, hover⟩ := hg
    have hd : d ≠ 0x00#8 := by rintro rfl; exact absurd hwf (by decide)
    simp [decode, encode, selectRx, hst, hd, Nat.not_le.2 hover]
  | rxDataMore d =>
    obtain ⟨hst, L, hL, hmore⟩ := hg
    rw [encode, decode, decodeOp_feed, selectRx_dataNext hst (memRead_ok (by omega) hL), if_pos hmore]
  | rxDataLast d =>
    obtain ⟨hst, L, hL, hlast⟩ := hg
    rw [encode, decode, decodeOp_feed, selectRx_dataNext hst (memRead_ok (by omega) hL), if_neg (by omega), if_pos hlast]
  | encTail d =>
    simp [decode, encode, selectEnc, show s.encPos ≠ 0 from hg]
  | encMismatch d =>
    obtain ⟨hpos, hd⟩ := hg
    simp [decode, encode, selectEnc, hpos, hd]
  | encMatch d | encCap d =>
    obtain ⟨hpos, hd, hcount⟩ := hg
    simp [decode, encode, selectEnc, hpos, hd, hcount]
  | decRun d => simp [decode, encode, selectDec, show d ≠ rleCap from hg]
  | decEnd => simp [decode, encode, selectDec]
  | frameCmdRow | frameCmdRefresh => rfl
  | frameCmdUndefined cmd =>
    obtain ⟨hrow, hrefresh⟩ := hwf
    simp [decode, encode, decodeCmd, hrow, hrefresh]

/-- Settles O36: the decoder selects a case (`decodeOp_ok`) whose guard and encoding fit (`decodeOp_guard`), and any other that fits is
what the decoder answers too (`decode_encode_of_guard`). -/
theorem guardsSelectExactlyOneCase : Obligations.GuardsSelectExactlyOneCase := by
  intro s w hs _
  obtain ⟨i, hi⟩ := decodeOp_ok w hs
  obtain ⟨hg, hw⟩ := decodeOp_guard hi
  refine ⟨i, hi, hg, hw, fun j hgj hj => ?_⟩
  have hdecode : decodeOp w s = .ok j := by
    have h := decode_encode_of_guard hs.1 hgj
    rwa [hj] at h
  exact Except.ok.inj (hdecode.symm.trans hi)

/-! ### Every well-formed instruction has its guard in some state of the invariant -/

/-- With parameters `c`: the receiver in `rx_state` `st` with the bytes `bs` buffered, every other unit at reset. -/
def State.receiving (c : Config) (st : RxState) (bs : List Byte) : State :=
  ((State.resetWith c).setBuf (Memory.ofBytes 0 bs)).setReceiver st bs.length (foldXor bs)

/-- The buffer and the accumulator agree with the bytes; the row of R30 is the rest of the invariant. -/
theorem receiving_inv {c : Config} {st : RxState} {bs : List Byte} (hc : c.Valid)
    (hrow : (State.receiving c st bs).stateRow) : (State.receiving c st bs).Inv := by
  refine ⟨hc, ⟨?_, ?_, hrow⟩, encInv_of_streamStart hc rfl rfl rfl⟩
  · exact (Memory.map_fst_ofBytes bs 0).trans List.range_eq_range'.symm
  · exact congrArg foldXor (Memory.map_snd_ofBytes bs 0).symm

/-- With a 257-byte buffer: a receiver that holds a complete frame of declared length `1`, its one payload byte `b`. -/
theorem receiving_complete_inv {st : RxState} (b : Byte) (hst : st = .checksumNext ∨ st = .etxNext) :
    (State.receiving Config.test257 st [stx, 1#8, b]).Inv := by
  refine receiving_inv (by decide) ?_
  have hframe : (State.receiving Config.test257 st [stx, 1#8, b]).holdsFrame 1#8 :=
    ⟨by decide, (by decide : 2 + (1#8 : Byte).toNat ≤ 257), rfl, rfl⟩
  rcases hst with rfl | rfl
  · exact ⟨1#8, hframe, rfl⟩
  · exact ⟨1#8, hframe, rfl⟩

/-- With the parameters of T: an encoder inside a run, every other unit at reset. -/
theorem setEnc_reset_inv (v : Byte) {n : Byte} {p : Nat} (hmax : n ≤ rleMaxRun) (hpos : p < 3) (hn : n ≠ 0#8) :
    ((State.resetWith Config.test).setEnc v n p).Inv := by
  obtain ⟨hc, hrx, _⟩ := resetStateMeetsTheInvariant Config.test (by decide)
  exact ⟨hc, rxInv_of_sameUnit ⟨rfl, rfl⟩ hrx, hmax, hpos, fun h => absurd h hn⟩

/-- The receiver's states in the middle of a frame and the encoder's in the middle of a run cover every operand; only an oversize length
needs the smallest capacity. -/
theorem exists_inv_guard (hwf : i.WellFormed) : ∃ s : State, s.Inv ∧ caseGuard i s := by
  have hreset : (State.resetWith Config.test257).Inv := resetStateMeetsTheInvariant _ (by decide)
  have hlength {c : Config} (hc : c.Valid) : (State.receiving c .lengthNext [stx]).Inv := receiving_inv hc ⟨rfl, rfl, rfl⟩
  have hdata {L : Byte} (h1 : 1 ≤ L.toNat) (hcap : 2 + L.toNat ≤ 257) :
      (State.receiving Config.test257 .dataNext [stx, L]).Inv :=
    receiving_inv (by decide) ⟨L, ⟨h1, hcap, rfl, rfl⟩, le_rfl, Nat.lt_add_of_pos_right h1⟩
  cases i with
  | reset _ | ckClear _ | ckFold _ | encEnd _ | reserved7 _ | reserved8F _ _ => exact ⟨_, hreset, trivial⟩
  | decRun _ => exact ⟨_, hreset, hwf⟩
  | decEnd => exact ⟨_, hreset, rfl⟩
  | rxIdleStart => exact ⟨_, hreset, rfl, rfl⟩
  | rxIdleReject _ => exact ⟨_, hreset, rfl, hwf⟩
  | rxLenAccept d =>
    have hfits : 2 + d.toNat ≤ 257 := by omega
    exact ⟨_, hlength (c := Config.test257) (by decide), rfl, hwf, hfits⟩
  | rxLenZero => exact ⟨_, hlength (c := Config.test257) (by decide), rfl, rfl⟩
  | rxLenOversize d =>
    have hover : 5 < 2 + d.toNat := Nat.add_lt_add_left (show 3 < d.toNat from hwf) 2
    exact ⟨_, hlength (c := { Config.test with rxBufCap := 5 }) (by decide), rfl, hover⟩
  | rxDataMore _ => exact ⟨_, hdata (L := 2#8) (by decide) (by decide), rfl, 2#8, rfl, by decide⟩
  | rxDataLast _ => exact ⟨_, hdata (L := 1#8) (by decide) (by decide), rfl, 1#8, rfl, rfl⟩
  | rxCkMatch d =>
    refine ⟨_, receiving_complete_inv (stx ^^^ 1#8 ^^^ d) (.inl rfl), rfl, ?_⟩
    show d = stx ^^^ 1#8 ^^^ (stx ^^^ 1#8 ^^^ d)
    rw [← BitVec.xor_assoc, BitVec.xor_self, BitVec.zero_xor]
  | rxCkMismatch d =>
    refine ⟨_, receiving_complete_inv (stx ^^^ 1#8 ^^^ ~~~d) (.inl rfl), rfl, ?_⟩
    show d ≠ stx ^^^ 1#8 ^^^ (stx ^^^ 1#8 ^^^ ~~~d)
    rw [← BitVec.xor_assoc, BitVec.xor_self, BitVec.zero_xor]
    bv_omega
  | rxEtxAccept => exact ⟨_, receiving_complete_inv 0x00#8 (.inr rfl), rfl, rfl⟩
  | rxEtxReject _ => exact ⟨_, receiving_complete_inv 0x00#8 (.inr rfl), rfl, hwf⟩
  | frameCmdRow => exact ⟨_, receiving_complete_inv cmdRow (.inr rfl), rfl, cmdRow, rfl, rfl⟩
  | frameCmdRefresh => exact ⟨_, receiving_complete_inv cmdRefresh (.inr rfl), rfl, cmdRefresh, rfl, rfl⟩
  | frameCmdUndefined cmd => exact ⟨_, receiving_complete_inv cmd (.inr rfl), rfl, cmd, rfl, rfl, hwf⟩
  | encTail d => exact ⟨_, setEnc_reset_inv d (n := 1#8) (p := 1) (by decide) (by decide) (by decide), Nat.one_ne_zero⟩
  | encMatch d =>
    exact ⟨_, setEnc_reset_inv d (n := 1#8) (p := 0) (by decide) (by decide) (by decide), rfl, rfl,
      (by decide : (1#8 : Byte) < rleMaxRun)⟩
  | encCap d => exact ⟨_, setEnc_reset_inv d (n := rleMaxRun) (p := 0) (by decide) (by decide) (by decide), rfl, rfl, rfl⟩
  | encMismatch d =>
    have hd : d ≠ ~~~d := by bv_omega
    exact ⟨_, setEnc_reset_inv (~~~d) (n := 1#8) (p := 0) (by decide) (by decide) (by decide), rfl, hd⟩

/-- Settles O37: a guard that holds gives well-formedness and decoding (`decode_encode_of_guard`), and `exists_inv_guard` gives the state. -/
theorem decodeInvertsEncode : Obligations.DecodeInvertsEncode := by
  refine ⟨fun s i hc hg => ⟨wellFormed_of_guard hc hg, decode_encode_of_guard hc hg⟩, fun i hwf => ?_⟩
  obtain ⟨s, hs, hg⟩ := exists_inv_guard hwf
  exact ⟨s, hs, hg, decode_encode_of_guard hs.1 hg⟩

/-! ### The fields of a word (R70, R71) -/

theorem opWord_toNat (op : BitVec 4) (d : Byte) : (opWord op d).toNat = 256 * op.toNat + d.toNat := by
  rw [opWord, BitVec.toNat_append, ← Nat.shiftLeft_add_eq_or_of_lt d.isLt, Nat.shiftLeft_eq, Nat.mul_comm]

/-- Settles O3: the meanings of RESET, CK_CLEAR and ENC_END do not read their byte. -/
theorem dataByteIsPlainAndIgnoredWhereTheSpecSaysSo : Obligations.DataByteIsPlainAndIgnoredWhereTheSpecSaysSo := by
  refine ⟨fun op d => ⟨opOf_opWord op d, dataOf_opWord op d, opWord_toNat op d⟩, fun s d d' => ⟨?_, ?_, ?_⟩⟩
  · rw [step_present_ok (decodeOp_reset s d), step_present_ok (decodeOp_reset s d')]
    rfl
  · rw [step_present_ok (decodeOp_ckClear s d), step_present_ok (decodeOp_ckClear s d')]
    rfl
  · rw [step_present_ok (decodeOp_encEnd s d), step_present_ok (decodeOp_encEnd s d')]
    rfl

/-! ### The reserved words (R72) -/

/-- A reserved word decodes to one of the two RESERVED rows, whose meaning refuses it by its fields. -/
theorem decodeOp_reserved (s : State) {op : BitVec 4} (d : Byte) (hop : 7 ≤ op.toNat) :
    ∃ i, decodeOp (opWord op d) s = .ok i ∧ ∀ r, exec i r = .refused (.reservedOperation op d) := by
  rcases opcode_cases op with rfl | rfl | rfl | rfl | rfl | rfl | rfl | rfl | ⟨low, rfl⟩
  case inr.inr.inr.inr.inr.inr.inr.inl => exact ⟨_, decodeOp_reserved7 s d, fun _ => rfl⟩
  case inr.inr.inr.inr.inr.inr.inr.inr => exact ⟨_, decodeOp_reserved8F s d low, fun _ => rfl⟩
  all_goals exact absurd hop (by decide)

theorem step_reserved {ws : List OpWord} (hp : s.pending = w :: ws) (hw : 7 ≤ (opOf w).toNat) :
    step s = .refused (.reservedOperation (opOf w) (dataOf w)) := by
  obtain ⟨i, hi, hx⟩ := decodeOp_reserved s (dataOf w) hw
  rw [opWord_fields] at hi
  rw [step_cons hp, hi]
  exact hx _

/-- A run over two word lists, whether it completes or stops: the first list, then the second from where the first ended. -/
theorem runWords_append_eq (ws vs : List OpWord) (s : State) :
    runWords (ws ++ vs) s = (runWords ws s).bind fun r => (runWords vs r.1).map fun q => (q.1, r.2 ++ q.2) := by
  induction ws generalizing s with
  | nil => simp [runWords_nil]
  | cons w ws ih =>
    cases hstep : step (s.present w) with
    | next t =>
      rw [List.cons_append, runWords_cons hstep, runWords_cons hstep, ih t]
      cases runWords ws t <;> simp [Function.comp_def]
    | fault f => simp [runWords, hstep]
    | refused f => simp [runWords, hstep]

/-- The refusal is kept for the whole run: the words before it end in some state, and in every state it is refused. -/
theorem runWords_reserved (hw : 7 ≤ (opOf w).toNat) (ws vs : List OpWord) (s : State) :
    runWords (vs ++ w :: ws) s = none := by
  have hstop (r : State) : runWords (w :: ws) r = none := by
    simp only [runWords, step_reserved (present_pending r w) hw]
  simp [runWords_append_eq, hstop]

theorem reserved8F_toNat (low : BitVec 3) : (1#1 ++ low : BitVec 4).toNat = 8 + low.toNat := by revert low; decide

/-- Settles O4: one step, a run, and the two meanings. -/
theorem reservedWordsAreRefused : Obligations.ReservedWordsAreRefused :=
  ⟨fun _ _ _ hp hw => step_reserved hp hw, fun s _ ws vs hw => runWords_reserved hw ws vs s, fun _ _ => rfl,
    fun _ low _ => ⟨1#1 ++ low, reserved8F_toNat low, rfl⟩⟩

end Sys2Proof.Machine
end

section
/-! The encoder's records (30_encoding.md R90): the bytes of a record after its leading byte only move the record position. -/

namespace Sys2Proof.Machine
variable {s t : State} {d : Byte}

/-! ### One ENC_BYTE step -/

/-- Inside a record the byte is a non-leading one, whatever it is (R172). -/
theorem step_nonLeading (hp : s.encPos ≠ 0) (d : Byte) :
    step (s.present (ScriptLine.encByte d).word) = .next ((s.setEnc s.encValue s.encCount (advancePos s)).emit []) := by
  have hdecode : decodeOp (ScriptLine.encByte d).word s = .ok (.encTail d) :=
    (decodeOp_encByte s d).trans (if_pos hp)
  rw [step_present_ok hdecode]
  exact whenGuard_pos (g := encTailGuard s) hp _

/-- Every case of ENC_BYTE advances the record position (R171). -/
theorem EncByteCase.encPos_eq (h : EncByteCase d s t) : t.encPos = advancePos s := by
  cases h with
  | tail _ ht | same _ _ _ ht | cap _ _ _ ht | mismatch _ _ ht => rw [ht, emit_encPos, setEnc_encPos]

theorem encByteCase_of_step (h : step (s.present (ScriptLine.encByte d).word) = .next t) : EncByteCase d s t := by
  cases step_present_cases h with
  | encByte _ hw hcase =>
    obtain ⟨_, rfl⟩ := opWord_inj.1 hw
    exact hcase
  | reset _ hw _ | feed _ hw _ | ckClear _ hw _ | ckFold _ hw _ | encEnd _ hw _ | decCount _ hw _ =>
    exact absurd (opWord_inj.1 hw).1 (by decide)

/-! ### One record -/

@[simp] theorem scriptWords_cons (l : ScriptLine) (ls : List ScriptLine) : scriptWords (l :: ls) = l.word :: scriptWords ls := rfl

theorem encRecord_eq_cons (v : Byte) (tail : List Byte) :
    encRecord v tail = (ScriptLine.encByte v).word :: scriptWords (tail.map .encByte) := rfl

/-- The last `n` bytes of a record bring the encoder to the record boundary, change nothing else and output nothing: one result for
all their values. -/
theorem runWords_nonLeading (n : Nat) (hn : n < s.cfg.recordBytes)
    (hp : s.encPos = (s.cfg.recordBytes - n) % s.cfg.recordBytes) :
    ∃ t, t = (s.setEnc s.encValue s.encCount 0).emit t.out ∧
      ∀ tail : List Byte, tail.length = n →
        runWords (scriptWords (tail.map .encByte)) s = some (t, List.replicate n []) := by
  induction n generalizing s with
  | zero =>
    have hp0 : s.encPos = 0 := by rw [hp, Nat.sub_zero, Nat.mod_self]
    refine ⟨s, ?_, fun tail htail => ?_⟩
    · rw [← hp0]; rfl
    · rw [List.eq_nil_of_length_eq_zero htail]; rfl
  | succ n ih =>
    have hpos : s.encPos = s.cfg.recordBytes - (n + 1) := by rw [hp, Nat.mod_eq_of_lt (by omega)]
    have hadv : advancePos s = (s.cfg.recordBytes - n) % s.cfg.recordBytes := by
      rw [advancePos, hpos]
      congr 1
      omega
    obtain ⟨t, ht, hrun⟩ := ih (s := (s.setEnc s.encValue s.encCount (advancePos s)).emit [])
      (by exact Nat.lt_of_succ_lt hn) hadv
    refine ⟨t, ht, fun tail htail => ?_⟩
    obtain ⟨d, tail, rfl⟩ := List.exists_cons_of_length_eq_add_one htail
    have hstep := step_nonLeading (s := s) (by omega) d
    rw [List.map_cons, scriptWords_cons, runWords_cons hstep, hrun tail (Nat.succ.inj htail)]
    rfl

/-- From a record boundary every record with the leading byte `v` has the same run: it stops, or it ends at one state at the next
boundary. -/
theorem runWords_encRecord (v : Byte) (hR : 1 ≤ s.cfg.recordBytes) (hp : s.encPos = 0) :
    ∃ result, (∀ tail : List Byte, tail.length + 1 = s.cfg.recordBytes → runWords (encRecord v tail) s = result) ∧
      ∀ t os, result = some (t, os) → t.cfg = s.cfg ∧ t.encPos = 0 := by
  cases hstep : step (s.present (ScriptLine.encByte v).word) with
  | next s' =>
    have hcase := encByteCase_of_step hstep
    have hcfg := hcase.cfg_eq
    have hpos : s'.encPos = (s'.cfg.recordBytes - (s.cfg.recordBytes - 1)) % s'.cfg.recordBytes := by
      rw [hcase.encPos_eq, advancePos, hp, hcfg, Nat.sub_sub_self hR]
    obtain ⟨t, ht, hrun⟩ := runWords_nonLeading (s.cfg.recordBytes - 1) (by rw [hcfg]; omega) hpos
    refine ⟨some (t, s'.out :: List.replicate (s.cfg.recordBytes - 1) []), fun tail htail => ?_, fun u os hu => ?_⟩
    · rw [encRecord_eq_cons, runWords_cons hstep, hrun tail (by omega)]
      rfl
    · cases hu
      rw [ht]
      exact ⟨hcfg, rfl⟩
  | fault f => exact ⟨none, fun _ _ => by simp only [encRecord_eq_cons, runWords, hstep], nofun⟩
  | refused f => exact ⟨none, fun _ _ => by simp only [encRecord_eq_cons, runWords, hstep], nofun⟩

/-! ### A stream of records -/

/-- Settles O58, by induction on the records: the first record of both streams has one run (`runWords_encRecord`), and the rest starts at
the boundary where it ends. -/
theorem nonLeadingBytesHaveNoEffect : Obligations.NonLeadingBytesHaveNoEffect := by
  intro s recs recs' hc hp hrecs hrecs' hleads
  induction recs generalizing s recs' with
  | nil =>
    obtain rfl : recs' = [] := List.map_eq_nil_iff.1 hleads.symm
    rfl
  | cons r recs ih =>
    cases recs' with
    | nil => cases hleads
    | cons r' recs' =>
      obtain ⟨hlead, hleads⟩ := List.cons.inj hleads
      obtain ⟨hr, hrecs⟩ := List.forall_mem_cons.1 hrecs
      obtain ⟨hr', hrecs'⟩ := List.forall_mem_cons.1 hrecs'
      have ⟨_, _, _, _, _, _, _, hR, _⟩ := hc
      obtain ⟨result, hrun, hend⟩ := runWords_encRecord r.1 hR hp
      rw [List.flatMap_cons, List.flatMap_cons, runWords_append_eq, runWords_append_eq, ← hlead, hrun _ hr, hrun _ hr']
      cases hresult : result with
      | none => rfl
      | some e =>
        obtain ⟨hcfg, hpos⟩ := hend e.1 e.2 hresult
        rw [Option.bind_some, Option.bind_some,
          ih e.1 recs' (by rwa [hcfg]) hpos (by rwa [hcfg]) (by rwa [hcfg]) hleads]

end Sys2Proof.Machine
end

section
/-! The laws of `fold_xor` (40_checksum.md R102, R103) and the checksum unit (R105 to R107). -/

namespace Sys2Proof.Machine
variable {s t : State} {w : OpWord}

/-! ### The laws of the fold (R102) -/

theorem foldXor_append (bs cs : List Byte) : foldXor (bs ++ cs) = foldXor bs ^^^ foldXor cs := by
  rw [foldXor_eq_foldl, List.foldl_append, foldl_xor_init, ← foldXor_eq_foldl]

/-- XOR commutes, so the order of the bytes does not count. -/
theorem foldXor_perm {bs cs : List Byte} (h : bs.Perm cs) : foldXor cs = foldXor bs := by
  rw [foldXor_eq_foldl, foldXor_eq_foldl, h.foldl_eq]

/-- Settles O24: concatenation and order are `foldXor_append` and `foldXor_perm`; the rest is that a byte cancels itself. -/
theorem checksumLaws : Obligations.ChecksumLaws := by
  refine ⟨foldXor_append, fun _ _ => foldXor_perm, fun a => ?_, fun bs => ?_⟩
  · rw [foldXor_cons, foldXor_cons, foldXor_nil, BitVec.xor_zero, BitVec.xor_self]
  · rw [foldXor_concat, BitVec.xor_self]

/-! ### Corrupted bytes (R103) -/

/-- An error byte at one position passes to the fold as it stands. -/
theorem foldXor_modify {bs : List Byte} {i : Nat} (e : Byte) (hi : i < bs.length) :
    foldXor (bs.modify i (· ^^^ e)) = foldXor bs ^^^ e := by
  induction bs generalizing i with
  | nil => exact absurd hi (Nat.not_lt_zero i)
  | cons b bs ih =>
    cases i with
    | zero =>
      rw [List.modify_zero_cons, foldXor_cons, foldXor_cons]
      ac_rfl
    | succ i =>
      rw [List.modify_succ_cons, foldXor_cons, foldXor_cons, ih (Nat.lt_of_succ_lt_succ hi), BitVec.xor_assoc]

/-- Error bytes at every position pass to the fold as their own fold. -/
theorem foldXor_zipWith {bs es : List Byte} (h : es.length = bs.length) :
    foldXor (List.zipWith (· ^^^ ·) bs es) = foldXor bs ^^^ foldXor es := by
  induction bs generalizing es with
  | nil =>
    obtain rfl := List.eq_nil_of_length_eq_zero h
    rfl
  | cons b bs ih =>
    obtain ⟨e, es, rfl⟩ := List.exists_cons_of_length_eq_add_one h
    rw [List.zipWith_cons_cons, foldXor_cons, foldXor_cons, foldXor_cons, ih (Nat.succ.inj h)]
    ac_rfl

/-- Settles O25: each corruption changes the fold by the fold of its error bytes (`foldXor_modify`, `foldXor_zipWith`). -/
theorem checksumErrorDetection : Obligations.ChecksumErrorDetection := by
  refine ⟨fun bs i e hi he => ?_, fun bs es h => ?_, fun bs i j e hi hj _ => ?_, fun _ _ => foldXor_perm⟩
  · rw [foldXor_modify e hi]
    exact ⟨rfl, mt xor_left_eq_self_iff.1 he⟩
  · rw [foldXor_zipWith h]
    exact xor_left_eq_self_iff
  · have hj' : j < (bs.modify i (· ^^^ e)).length := by rwa [List.length_modify]
    rw [foldXor_modify e hj', foldXor_modify e hi, xor_cancel_right]

/-! ### The operations of the checksum unit (R105, R106) -/

theorem exec_ckClear (s : State) (d : Byte) : exec (.ckClear d) s = .next ((s.setCk 0x00#8).emit []) := rfl

theorem exec_ckFold (s : State) (d : Byte) : exec (.ckFold d) s = .next ((s.setCk (s.ckAcc ^^^ d)).emit []) := rfl

/-- Settles O21: the decoder at operation code 2, and `setCk` and `emit` as the updates of one field each. -/
theorem checksumClear : Obligations.ChecksumClear :=
  fun s d => ⟨decodeOp_ckClear s d, exec_ckClear s d⟩

/-- Settles O22: the decoder at operation code 3, `exec_ckFold`, and XOR with zero and with the byte itself. -/
theorem checksumFold : Obligations.ChecksumFold := by
  intro s d
  refine ⟨decodeOp_ckFold s d, exec_ckFold s d, ?_, ?_, xor_cancel_right s.ckAcc d⟩
  · rintro rfl
    exact BitVec.xor_zero
  · rintro rfl
    exact BitVec.xor_self

/-! ### A run (R107) -/

/-- What a word's step means for `ck_acc`: RESET and CK.CLEAR set it to zero, CK.FOLD folds its byte, another unit's operation leaves it. -/
theorem WordCase.ckAcc_cases (h : WordCase w s t) :
    ((opOf w = 0x0#4 ∨ opOf w = 0x2#4) ∧ t.ckAcc = 0x00#8) ∨
    (opOf w = 0x3#4 ∧ t.ckAcc = s.ckAcc ^^^ dataOf w) ∨
    ((opOf w ≠ 0x0#4 ∧ opOf w ≠ 0x2#4 ∧ opOf w ≠ 0x3#4) ∧ t.ckAcc = s.ckAcc) := by
  have hframe := h.frame (u := .checksum)
  cases h with
  | reset d hw ht => exact .inl (by simp [hw, ht])
  | ckClear d hw ht => exact .inl (by simp [hw, ht])
  | ckFold d hw ht => exact .inr (.inl (by simp [hw, ht]))
  | feed d hw _ | encByte d hw _ | encEnd d hw _ | decCount d hw _ =>
    obtain ⟨hview, _⟩ := hframe (by simp [hw])
    exact .inr (.inr ⟨by simp [hw], UnitView.checksum.inj hview⟩)

/-- After RESET or CK.CLEAR the accumulator is zero, whatever it held (R105, R250). -/
theorem ckAcc_of_step_clearing (hw : opOf w = 0x0#4 ∨ opOf w = 0x2#4) (h : step (s.present w) = .next t) :
    t.ckAcc = 0x00#8 := by
  rcases (step_present_cases h).ckAcc_cases with ⟨_, hacc⟩ | ⟨h3, _⟩ | ⟨⟨h0, h2, _⟩, _⟩
  · exact hacc
  · rw [h3] at hw
    exact absurd hw (by decide)
  · exact absurd hw (not_or.2 ⟨h0, h2⟩)

/-- A run without RESET and CK.CLEAR folds the bytes of its CK.FOLDs into the accumulator it finds. -/
theorem runWords_ckAcc {ws : List OpWord} {os : List (List OutEvent)} (hws : ∀ v ∈ ws, opOf v ≠ 0x0#4 ∧ opOf v ≠ 0x2#4)
    (h : runWords ws s = some (t, os)) :
    t.ckAcc = s.ckAcc ^^^ foldXor ((ws.filter fun v => opOf v == 0x3#4).map dataOf) := by
  induction ws generalizing s os with
  | nil =>
    cases h
    exact BitVec.xor_zero.symm
  | cons w ws ih =>
    obtain ⟨s', os', hstep, hrun, _⟩ := runWords_cons_some h
    obtain ⟨⟨h0, h2⟩, hws⟩ := List.forall_mem_cons.1 hws
    rw [ih hws hrun]
    rcases (step_present_cases hstep).ckAcc_cases with ⟨hclear, _⟩ | ⟨h3, hacc⟩ | ⟨⟨_, _, h3⟩, hacc⟩
    · exact absurd hclear (not_or.2 ⟨h0, h2⟩)
    · rw [hacc, List.filter_cons_of_pos (by simp [h3]), List.map_cons, foldXor_cons, BitVec.xor_assoc]
    · rw [hacc, List.filter_cons_of_neg (by simp [h3])]

/-- RESET and CK.CLEAR go on in every state. -/
theorem step_clearing (s : State) (hw : opOf w = 0x0#4 ∨ opOf w = 0x2#4) : ∃ t, step (s.present w) = .next t := by
  rw [← opWord_fields w]
  rcases hw with h | h <;> rw [h]
  · exact ⟨_, step_present_ok (decodeOp_reset s _)⟩
  · exact ⟨_, (step_present_ok (decodeOp_ckClear s _)).trans (exec_ckClear s _)⟩

/-- CK.FOLD goes on in every state, and so does a run of it. -/
theorem runWords_ckFolds (bs : List Byte) (s : State) :
    ∃ t os, runWords (ckFolds bs) s = some (t, os) ∧ t.ckAcc = s.ckAcc ^^^ foldXor bs := by
  induction bs generalizing s with
  | nil => exact ⟨s, [], rfl, BitVec.xor_zero.symm⟩
  | cons b bs ih =>
    have hstep : step (s.present (ScriptLine.ckFold b).word) = .next ((s.setCk (s.ckAcc ^^^ b)).emit []) :=
      (step_present_ok (decodeOp_ckFold s b)).trans (exec_ckFold s b)
    obtain ⟨t, os, hrun, hacc⟩ := ih ((s.setCk (s.ckAcc ^^^ b)).emit [])
    refine ⟨t, [] :: os, ?_, ?_⟩
    · rw [ckFolds, List.map_cons, scriptWords_cons, runWords_cons hstep, ← ckFolds, hrun]
      rfl
    · rw [hacc, foldXor_cons, emit_ckAcc, setCk_ckAcc, BitVec.xor_assoc]

/-- Settles O23: the first word sets the accumulator to zero, and the rest of the run folds into it (`runWords_ckAcc`); the pure fold run
completes by `step_clearing` and `runWords_ckFolds`. -/
theorem checksumUnitFoldsTheBytesPresented : Obligations.ChecksumUnitFoldsTheBytesPresented := by
  refine ⟨fun s t w ws os hw hws h => ?_, fun s w bs hw => ?_⟩
  · obtain ⟨s', os', hstep, hrun, _⟩ := runWords_cons_some h
    rw [runWords_ckAcc hws hrun, ckAcc_of_step_clearing hw hstep, BitVec.zero_xor]
  · obtain ⟨s', hstep⟩ := step_clearing s hw
    obtain ⟨t, os, hrun, hacc⟩ := runWords_ckFolds bs s'
    refine ⟨t, s'.out :: os, ?_, ?_⟩
    · rw [runWords_cons hstep, hrun]
      rfl
    · rw [hacc, ckAcc_of_step_clearing hw hstep, BitVec.zero_xor]

end Sys2Proof.Machine
end

section
/-! The receiver case by case (41_receiver.md R125 to R139): which case a byte selects in each `rx_state`, and what that case does. -/

namespace Sys2Proof.Machine
variable {s : State} {d L : Byte}

/-! ### The case a byte selects (R73) -/

theorem selectRx_idleStart (hst : s.rxState = .idle) : selectRx stx s = .ok .rxIdleStart := by
  simp only [selectRx, hst, if_pos]

theorem selectRx_idleReject (hst : s.rxState = .idle) (hd : d ≠ stx) : selectRx d s = .ok (.rxIdleReject d) := by
  simp only [selectRx, hst, if_neg hd]

theorem selectRx_lenZero (hst : s.rxState = .lengthNext) : selectRx 0x00#8 s = .ok .rxLenZero := by
  simp only [selectRx, hst, if_pos]

/-- A length that the zero of R129 does not take. -/
theorem ne_zero_of_one_le (h : 1 ≤ d.toNat) : d ≠ 0x00#8 := by
  rintro rfl
  exact absurd h (by decide)

theorem selectRx_lenAccept (hst : s.rxState = .lengthNext) (hpos : 1 ≤ d.toNat) (hfits : 2 + d.toNat ≤ s.cfg.rxBufCap) :
    selectRx d s = .ok (.rxLenAccept d) := by
  simp only [selectRx, hst, if_neg (ne_zero_of_one_le hpos), if_pos hfits]

theorem selectRx_lenOversize (hst : s.rxState = .lengthNext) (hpos : 1 ≤ d.toNat) (hover : s.cfg.rxBufCap < 2 + d.toNat) :
    selectRx d s = .ok (.rxLenOversize d) := by
  simp only [selectRx, hst, if_neg (ne_zero_of_one_le hpos), if_neg (Nat.not_le.2 hover)]

theorem selectRx_dataMore (hst : s.rxState = .dataNext) (hL : s.memRead 1 = .ok L) (hmore : s.rxCount + 1 < 2 + L.toNat) :
    selectRx d s = .ok (.rxDataMore d) := by
  rw [selectRx_dataNext hst hL, if_pos hmore]

theorem selectRx_dataLast (hst : s.rxState = .dataNext) (hL : s.memRead 1 = .ok L) (hlast : s.rxCount + 1 = 2 + L.toNat) :
    selectRx d s = .ok (.rxDataLast d) := by
  rw [selectRx_dataNext hst hL, if_neg hlast.not_lt, if_pos hlast]

theorem selectRx_ckMatch (hst : s.rxState = .checksumNext) : selectRx s.rxAcc s = .ok (.rxCkMatch s.rxAcc) := by
  simp only [selectRx, hst, if_pos]

theorem selectRx_ckMismatch (hst : s.rxState = .checksumNext) (hd : d ≠ s.rxAcc) :
    selectRx d s = .ok (.rxCkMismatch d) := by
  simp only [selectRx, hst, if_neg hd]

theorem selectRx_etxAccept (hst : s.rxState = .etxNext) : selectRx etx s = .ok .rxEtxAccept := by
  simp only [selectRx, hst, if_pos]

theorem selectRx_etxReject (hst : s.rxState = .etxNext) (hd : d ≠ etx) : selectRx d s = .ok (.rxEtxReject d) := by
  simp only [selectRx, hst, if_neg hd]

/-- An RX_FEED word decodes to the case its byte selects. -/
theorem decodeOp_of_selectRx {i : Instr} (h : selectRx d s = .ok i) : decodeOp (opWord 0x1#4 d) s = .ok i :=
  (decodeOp_feed s d).trans h

/-! ### What the selected case does -/

theorem exec_rxIdleStart (hst : s.rxState = .idle) (hcap : 0 < s.cfg.rxBufCap) :
    exec .rxIdleStart s =
      .next (((s.setBuf (s.rxBuf.write 0 stx)).setReceiver .lengthNext 1 stx).emit [.result .pending]) :=
  (whenGuard_pos ⟨hst, rfl⟩ _).trans (storeByte_ok _ _ _ _ hcap)

theorem exec_rxIdleReject (hst : s.rxState = .idle) (hd : d ≠ stx) :
    exec (.rxIdleReject d) s = .next (s.takeRejection .badStart) :=
  whenGuard_pos ⟨hst, hd⟩ _

theorem exec_rxLenAccept (hst : s.rxState = .lengthNext) (hpos : 1 ≤ d.toNat) (hfits : 2 + d.toNat ≤ s.cfg.rxBufCap) :
    exec (.rxLenAccept d) s =
      .next (((s.setBuf (s.rxBuf.write 1 d)).setReceiver .dataNext 2 (s.rxAcc ^^^ d)).emit [.result .pending]) :=
  (whenGuard_pos ⟨hst, hpos, hfits⟩ _).trans (storeByte_ok _ _ _ _ (by omega))

theorem exec_rxLenZero (hst : s.rxState = .lengthNext) : exec .rxLenZero s = .next (s.rejectFrame .zeroLength) :=
  whenGuard_pos ⟨hst, rfl⟩ _

theorem exec_rxLenOversize (hst : s.rxState = .lengthNext) (hover : s.cfg.rxBufCap < 2 + d.toNat) :
    exec (.rxLenOversize d) s = .next (s.rejectFrame .oversize) :=
  whenGuard_pos ⟨hst, hover⟩ _

theorem exec_rxDataMore (hst : s.rxState = .dataNext) (hL : s.memRead 1 = .ok L) (hmore : s.rxCount + 1 < 2 + L.toNat)
    (hcap : s.rxCount < s.cfg.rxBufCap) :
    exec (.rxDataMore d) s =
      .next (((s.setBuf (s.rxBuf.write s.rxCount d)).setReceiver .dataNext (s.rxCount + 1) (s.rxAcc ^^^ d)).emit
        [.result .pending]) :=
  payloadByte_ok (cond := fun n L => n + 1 < 2 + L) hst hL hmore hcap

theorem exec_rxDataLast (hst : s.rxState = .dataNext) (hL : s.memRead 1 = .ok L) (hlast : s.rxCount + 1 = 2 + L.toNat)
    (hcap : s.rxCount < s.cfg.rxBufCap) :
    exec (.rxDataLast d) s =
      .next (((s.setBuf (s.rxBuf.write s.rxCount d)).setReceiver .checksumNext (s.rxCount + 1) (s.rxAcc ^^^ d)).emit
        [.result .pending]) :=
  payloadByte_ok (cond := fun n L => n + 1 = 2 + L) hst hL hlast hcap

theorem exec_rxCkMatch (hst : s.rxState = .checksumNext) :
    exec (.rxCkMatch s.rxAcc) s = .next ((s.setReceiver .etxNext s.rxCount s.rxAcc).emit [.result .pending]) :=
  whenGuard_pos ⟨hst, rfl⟩ _

theorem exec_rxCkMismatch (hst : s.rxState = .checksumNext) (hd : d ≠ s.rxAcc) :
    exec (.rxCkMismatch d) s = .next (s.rejectFrame .badChecksum) :=
  whenGuard_pos ⟨hst, hd⟩ _

theorem exec_rxEtxAccept {p : Payload} (hst : s.rxState = .etxNext) (hp : s.classify = .ok p) :
    exec .rxEtxAccept s = .next (s.frameReset.emit (dispatchEvents p ++ [.reply ack, .result (.accepted p)])) :=
  (whenGuard_pos (g := etxAcceptGuard etx s) ⟨hst, rfl⟩ _).trans (congrArg (onPayload · _) hp)

theorem exec_rxEtxReject (hst : s.rxState = .etxNext) (hd : d ≠ etx) :
    exec (.rxEtxReject d) s = .next (s.rejectFrame .badEtx) :=
  whenGuard_pos ⟨hst, hd⟩ _

/-- What R121 and R212 ask of a rejection is what `rejectFrame` does. -/
theorem rejectedFrom_rejectFrame (s : State) (c : Cause) : rejectedFrom s (s.rejectFrame c) c :=
  ⟨rfl, Memory.read_nil⟩

/-! ### The start marker (R125, R126) -/

/-- Settles O5: the case selected in IDLE stores the marker; elsewhere its guard fails. -/
theorem startMarkerOpensAFrame : Obligations.StartMarkerOpensAFrame := by
  refine ⟨fun s hc hst => ?_, fun s hst h => ?_⟩
  · obtain ⟨_, _, _, _, _, hcap, _⟩ := hc
    exact ⟨decodeOp_of_selectRx (selectRx_idleStart hst), s.rxBuf.write 0 stx, fun a => Memory.read_write _ _ a _,
      exec_rxIdleStart hst (by omega)⟩
  · obtain ⟨⟨hidle, _⟩, _⟩ := decodeOp_guard h
    exact hst hidle

/-- Settles O6: the case selected in IDLE emits the NAK and moves no register. -/
theorem otherByteInIdleIsNaked : Obligations.OtherByteInIdleIsNaked :=
  fun _ _ hst hd => ⟨decodeOp_of_selectRx (selectRx_idleReject hst hd), exec_rxIdleReject hst hd⟩

/-! ### The declared length (R128 to R130) -/

/-- Settles O7: an admissible length is stored; the guard of the case bounds what is admitted. -/
theorem admissibleLengthIsBuffered : Obligations.AdmissibleLengthIsBuffered := by
  refine ⟨fun s d hst hpos hfits => ?_, fun s d _ hover h => ?_⟩
  · exact ⟨decodeOp_of_selectRx (selectRx_lenAccept hst hpos hfits), s.rxBuf.write 1 d,
      fun a => Memory.read_write _ _ a _, exec_rxLenAccept hst hpos hfits⟩
  · obtain ⟨⟨_, _, hfits⟩, _⟩ := decodeOp_guard h
    exact absurd hfits (Nat.not_le.2 hover)

/-- Settles O8: the zero byte selects the rejecting case. -/
theorem zeroLengthIsRejected : Obligations.ZeroLengthIsRejected :=
  fun s hst => ⟨decodeOp_of_selectRx (selectRx_lenZero hst), _, exec_rxLenZero hst, rejectedFrom_rejectFrame s _⟩

/-- Valid parameters leave room for a frame of one payload byte, so an oversize length is not zero (R7, R130). -/
theorem one_le_of_oversize (hc : s.cfg.Valid) (hover : s.cfg.rxBufCap < 2 + d.toNat) : 1 ≤ d.toNat := by
  obtain ⟨_, _, _, _, _, hcap, _⟩ := hc
  omega

/-- Settles O9: an oversize length selects the rejecting case, which no byte reaches at capacity 257; and the three cases cover every
byte, since the byte is zero or not, and fits or not. -/
theorem oversizeLengthIsRejected : Obligations.OversizeLengthIsRejected := by
  refine ⟨fun s d hc hst hover => ?_, fun s d hcap h => ?_, fun s d hc hst => ?_⟩
  · exact ⟨decodeOp_of_selectRx (selectRx_lenOversize hst (one_le_of_oversize hc hover) hover), _,
      exec_rxLenOversize hst hover, rejectedFrom_rejectFrame s _⟩
  · obtain ⟨⟨_, hover⟩, _⟩ := decodeOp_guard h
    have := d.isLt
    omega
  · rcases Nat.eq_zero_or_pos d.toNat with hzero | hpos
    · obtain rfl : d = 0x00#8 := BitVec.eq_of_toNat_eq hzero
      exact .inr (.inl ⟨rfl, decodeOp_of_selectRx (selectRx_lenZero hst)⟩)
    · rcases Nat.lt_or_ge s.cfg.rxBufCap (2 + d.toNat) with hover | hfits
      · exact .inr (.inr ⟨hpos, hover, decodeOp_of_selectRx (selectRx_lenOversize hst hpos hover)⟩)
      · exact .inl ⟨hpos, hfits, decodeOp_of_selectRx (selectRx_lenAccept hst hpos hfits)⟩

/-! ### The payload (R132, R133) -/

/-- `dataNext_length` at the length byte that the buffer holds. -/
theorem dataNext_of_read (hs : s.RxInv) (hst : s.rxState = .dataNext) (hread : s.rxBuf.read 1 = some L) :
    s.memRead 1 = .ok L ∧ 2 ≤ s.rxCount ∧ s.rxCount < 2 + L.toNat ∧ 2 + L.toNat ≤ s.cfg.rxBufCap := by
  obtain ⟨L', hL', hrest⟩ := dataNext_length hs hst
  obtain rfl : L' = L := Option.some.inj ((memRead_ok_iff.1 hL').2.symm.trans hread)
  exact ⟨hL', hrest⟩

/-- Settles O10: below the last payload byte the byte is stored at `rx_count`; with `L = 1` the first byte is the last. -/
theorem payloadByteIsBuffered : Obligations.PayloadByteIsBuffered := by
  refine ⟨fun s d L hs hst hread hmore => ?_, fun s d hs hst hread h => ?_⟩
  · obtain ⟨_, hrx, _⟩ := hs
    obtain ⟨hL, _, hlt, hfits⟩ := dataNext_of_read hrx hst hread
    have hcap : s.rxCount < s.cfg.rxBufCap := hlt.trans_le hfits
    refine ⟨decodeOp_of_selectRx (selectRx_dataMore hst hL hmore), hcap, s.rxBuf.write s.rxCount d,
      fun a => Memory.read_write _ _ a _, ?_⟩
    rw [exec_rxDataMore hst hL hmore hcap, ← hst]
    rfl
  · obtain ⟨_, hrx, _⟩ := hs
    obtain ⟨_, h2, _, _⟩ := dataNext_of_read hrx hst hread
    obtain ⟨⟨_, L, hL, hmore⟩, _⟩ := decodeOp_guard h
    obtain rfl : 1#8 = L := Option.some.inj (hread.symm.trans hL)
    exact absurd hmore (Nat.not_lt.2 (Nat.succ_le_succ h2))

/-- Settles O11: the last payload byte is stored at `rx_count` and the count is then the frame's; in DATA_NEXT there is no third case. -/
theorem lastPayloadByteIsBuffered : Obligations.LastPayloadByteIsBuffered := by
  refine ⟨fun s d L hs hst hread hlast => ?_, fun s d hs hst => ?_⟩
  · obtain ⟨_, hrx, _⟩ := hs
    obtain ⟨hL, _, hlt, hfits⟩ := dataNext_of_read hrx hst hread
    have hcap : s.rxCount < s.cfg.rxBufCap := hlt.trans_le hfits
    refine ⟨decodeOp_of_selectRx (selectRx_dataLast hst hL hlast), Nat.le_sub_one_of_lt hcap, s.rxBuf.write s.rxCount d,
      fun a => Memory.read_write _ _ a _, ?_⟩
    rw [exec_rxDataLast hst hL hlast hcap, hlast]
    rfl
  · obtain ⟨_, hrx, _⟩ := hs
    obtain ⟨L, hL, _, hlt, _⟩ := dataNext_length hrx hst
    rcases Nat.lt_or_eq_of_le (Nat.succ_le_of_lt hlt) with hmore | hlast
    · exact .inl (decodeOp_of_selectRx (selectRx_dataMore hst hL hmore))
    · exact .inr (decodeOp_of_selectRx (selectRx_dataLast hst hL hlast))

/-! ### The checksum byte (R135, R136, R141) -/

/-- Settles O12: the match moves `rx_state` alone; `rx_acc` is the fold of the buffered bytes by the invariant (R28). -/
theorem matchingChecksumAwaitsTheEndMarker : Obligations.MatchingChecksumAwaitsTheEndMarker := by
  refine ⟨fun s hst => ⟨decodeOp_of_selectRx (selectRx_ckMatch hst), exec_rxCkMatch hst⟩, fun s hs hst => ?_⟩
  obtain ⟨_, ⟨hb, hacc, hrow⟩, _⟩ := hs
  simp only [State.stateRow, hst] at hrow
  obtain ⟨L, ⟨_, _, _, hread⟩, hcount⟩ := hrow
  exact ⟨L, s.rxBuf.map Prod.snd, hread, (bufBytes_length hb).trans hcount, read_of_bufShape hb, hacc⟩

/-- Settles O13: a byte other than the accumulator selects the rejecting case. -/
theorem mismatchingChecksumIsRejected : Obligations.MismatchingChecksumIsRejected :=
  fun s _ hst hd =>
    ⟨decodeOp_of_selectRx (selectRx_ckMismatch hst hd), _, exec_rxCkMismatch hst hd, rejectedFrom_rejectFrame s _⟩

/-! ### The end marker (R138, R139, R142) -/

/-- Settles O14: the frame is classified without a fault (`classify_ok`), dispatched and acknowledged. -/
theorem endMarkerAcceptsTheFrame : Obligations.EndMarkerAcceptsTheFrame := by
  refine ⟨fun s hs hst => ?_, rfl, fun _ _ _ => rfl⟩
  obtain ⟨_, hrx, _⟩ := hs
  obtain ⟨p, hp⟩ := classify_ok hrx hst
  exact ⟨decodeOp_of_selectRx (selectRx_etxAccept hst), p, [], hp, Memory.read_nil, exec_rxEtxAccept hst hp⟩

/-- Settles O15: any other byte selects the rejecting case. -/
theorem wrongTerminatorIsRejected : Obligations.WrongTerminatorIsRejected :=
  fun s _ hst hd =>
    ⟨decodeOp_of_selectRx (selectRx_etxReject hst hd), _, exec_rxEtxReject hst hd, rejectedFrom_rejectFrame s _⟩

end Sys2Proof.Machine
end

section
/-! Classification and dispatch (41_receiver.md R150 to R153): what `classify()` answers for the frame in the buffer, and the pixels of a
row. -/

namespace Sys2Proof.Machine
variable {s : State} {L cmd r : Byte}

/-! ### `classify()` on a frame whose bytes are known (R150) -/

theorem classify_eq (hL : s.memRead 1 = .ok L) (hcmd : s.memRead 2 = .ok cmd) :
    s.classify = if cmd = cmdRow then s.classifyRow L cmd
      else if cmd = cmdRefresh then .ok .refresh
      else .ok (.unrecognized cmd L .unknownCommand) := by
  simp only [State.classify, hL, hcmd]

theorem classifyRow_short (hshort : L.toNat < 2 + s.cfg.wb) : s.classifyRow L cmd = .ok (.unrecognized cmd L .rowShort) :=
  if_pos hshort

theorem classifyRow_outOfRange (hlong : 2 + s.cfg.wb ≤ L.toNat) (hr : s.memRead 3 = .ok r)
    (hrange : s.cfg.height ≤ r.toNat) : s.classifyRow L cmd = .ok (.unrecognized cmd L .rowOutOfRange) := by
  simp only [State.classifyRow, if_neg (Nat.not_lt.2 hlong), hr, if_pos hrange]

theorem classifyRow_inRange {bits : List Byte} (hlong : 2 + s.cfg.wb ≤ L.toNat) (hr : s.memRead 3 = .ok r)
    (hrange : r.toNat < s.cfg.height) (hbits : s.memReads 4 s.cfg.wb = .ok bits) :
    s.classifyRow L cmd = .ok (.row r bits) := by
  simp only [State.classifyRow, if_neg (Nat.not_lt.2 hlong), hr, if_neg (Nat.not_le.2 hrange), hbits]

/-- A `ROW` command is never classified as a refresh. -/
theorem classifyRow_ne_refresh : s.classifyRow L cmd ≠ .ok .refresh := by
  unfold State.classifyRow
  by_cases hshort : L.toNat < 2 + s.cfg.wb
  · simp [hshort]
  · cases s.memRead 3 with
    | error f => simp [hshort]
    | ok r =>
      by_cases hrange : s.cfg.height ≤ r.toNat
      · simp [hshort, hrange]
      · cases s.memReads 4 s.cfg.wb <;> simp [hshort, hrange]

/-- R30: in ETX_NEXT the length byte is readable, and the buffer holds the whole frame. -/
theorem etxNext_length (hs : s.RxInv) (hst : s.rxState = .etxNext) :
    ∃ L, s.memRead 1 = .ok L ∧ 1 ≤ L.toNat ∧ s.rxCount = 2 + L.toNat ∧ 2 + L.toNat ≤ s.cfg.rxBufCap := by
  obtain ⟨_, _, hrow⟩ := hs
  simp only [State.stateRow, hst] at hrow
  obtain ⟨L, ⟨hpos, hfits, _, hread⟩, hcount⟩ := hrow
  exact ⟨L, memRead_ok (by omega) hread, hpos, hcount, hfits⟩

/-- `etxNext_length` at the length byte that the buffer holds. -/
theorem etxNext_of_read (hs : s.RxInv) (hst : s.rxState = .etxNext) (hread : s.rxBuf.read 1 = some L) :
    s.memRead 1 = .ok L ∧ 1 ≤ L.toNat ∧ s.rxCount = 2 + L.toNat ∧ 2 + L.toNat ≤ s.cfg.rxBufCap := by
  obtain ⟨L', hL', hrest⟩ := etxNext_length hs hst
  obtain rfl : L' = L := Option.some.inj ((memRead_ok_iff.1 hL').2.symm.trans hread)
  exact ⟨hL', hrest⟩

/-- Valid parameters leave room for the command byte (R7). -/
theorem memRead_command (hs : s.Inv) (h : s.rxBuf.read 2 = some cmd) : s.memRead 2 = .ok cmd := by
  obtain ⟨⟨_, _, _, _, _, hcap, _⟩, _, _⟩ := hs
  exact memRead_ok (by omega) h

/-- A row of reads that goes on, taken apart at its first byte. -/
theorem memReads_succ {i n : Nat} {bs : List Byte} (h : s.memReads i (n + 1) = .ok bs) :
    ∃ b bs', s.memRead i = .ok b ∧ s.memReads (i + 1) n = .ok bs' ∧ bs = b :: bs' := by
  rw [State.memReads] at h
  cases hb : s.memRead i with
  | error f => simp [hb] at h
  | ok b =>
    cases hbs : s.memReads (i + 1) n with
    | error f => simp [hb, hbs] at h
    | ok bs' => exact ⟨b, bs', rfl, rfl, by simpa [hb, hbs] using h.symm⟩

/-- A row of reads that goes on answers what the entries hold. -/
theorem memReads_getElem? {i n j : Nat} {bs : List Byte} (h : s.memReads i n = .ok bs) (hj : j < n) :
    bs[j]? = s.rxBuf.read (i + j) := by
  induction n generalizing i j bs with
  | zero => exact absurd hj (Nat.not_lt_zero j)
  | succ n ih =>
    obtain ⟨b, bs', hb, hbs, rfl⟩ := memReads_succ h
    cases j with
    | zero => exact (memRead_ok_iff.1 hb).2.symm
    | succ j =>
      rw [List.getElem?_cons_succ, ih hbs (Nat.lt_of_succ_lt_succ hj), Nat.add_right_comm, Nat.add_assoc]

/-- Settles O16: the branches of `classify()`, each under its condition; the declared length says that the entries read hold bytes. -/
theorem classificationFollowsCommandLengthAndRow : Obligations.ClassificationFollowsCommandLengthAndRow := by
  intro s L cmd hs hst hL hcmd
  have ⟨_, hrx, _⟩ := hs
  have ⟨hb, _, _⟩ := hrx
  obtain ⟨hL, _, hcount, hfits⟩ := etxNext_of_read hrx hst hL
  have hclass := classify_eq hL (memRead_command hs hcmd)
  refine ⟨fun hrow hshort => ?_, fun hrow hlong => ?_, fun hrefresh => ?_, fun hrow hrefresh => ?_⟩
  · rw [hclass, if_pos hrow, classifyRow_short hshort]
  · obtain ⟨r, hr⟩ := memRead_of_bufShape (i := 3) hb (by omega) (hcount ▸ hfits)
    refine ⟨r, (memRead_ok_iff.1 hr).2, fun hrange => ?_, fun hrange => ?_⟩
    · rw [hclass, if_pos hrow, classifyRow_outOfRange hlong hr hrange]
    · obtain ⟨bits, hbits⟩ := memReads_of_bufShape (i := 4) (n := s.cfg.wb) hb (by omega) (hcount ▸ hfits)
      refine ⟨bits, memReads_length hbits, fun _ hj => memReads_getElem? hbits hj, ?_⟩
      rw [hclass, if_pos hrow, classifyRow_inRange hlong hr hrange hbits]
  · rw [hclass, hrefresh]
    rfl
  · rw [hclass, if_neg hrow, if_neg hrefresh]

/-! ### The command codes by themselves (log 6) -/

/-- Settles O18: both instructions dispatch the calls of the payload that `classify()` gives, and a `ROW` command gives no refresh. -/
theorem rowCommandDispatches : Obligations.RowCommandDispatches := by
  intro s hs hst hread
  have ⟨_, hrx, _⟩ := hs
  obtain ⟨L, hL, _⟩ := etxNext_length hrx hst
  have hcmd := memRead_command hs hread
  obtain ⟨p, hp⟩ := classify_ok hrx hst
  refine ⟨rfl, p, _, hp, ?_, dispatchCommand_ok (codes := (· = cmdRow)) hst hcmd rfl hp, exec_rxEtxAccept hst hp, ?_⟩
  · rintro rfl
    rw [classify_eq hL hcmd, if_pos rfl] at hp
    exact classifyRow_ne_refresh hp
  · rw [emit_out, dispatchesOf_append, dispatchesOf_dispatchEvents]
    exact List.append_nil _

/-- Settles O19: a `REFRESH` command is classified as a refresh, whose one call is `Flush()`. -/
theorem refreshCommandFlushes : Obligations.RefreshCommandFlushes := by
  intro s hs hst hread
  have ⟨_, hrx, _⟩ := hs
  obtain ⟨L, hL, _⟩ := etxNext_length hrx hst
  have hcmd := memRead_command hs hread
  have hp : s.classify = .ok .refresh := classify_eq hL hcmd
  exact ⟨rfl, dispatchCommand_ok (codes := (· = cmdRefresh)) hst hcmd rfl hp, _, exec_rxEtxAccept hst hp, rfl⟩

/-- Settles O20: any other command is classified as unknown, which has no calls. -/
theorem undefinedCommandIsAcknowledgedWithoutDispatch : Obligations.UndefinedCommandIsAcknowledgedWithoutDispatch := by
  intro s L cmd hs hst hread hreadCmd hrow hrefresh
  have ⟨_, hrx, _⟩ := hs
  obtain ⟨hL, _⟩ := etxNext_of_read hrx hst hread
  have hcmd := memRead_command hs hreadCmd
  have hp : s.classify = .ok (.unrecognized cmd L .unknownCommand) := by
    rw [classify_eq hL hcmd, if_neg hrow, if_neg hrefresh]
  have hcode : decodeCmd cmd = .frameCmdUndefined cmd := by rw [decodeCmd, if_neg hrow, if_neg hrefresh]
  exact ⟨hcode, dispatchCommand_ok (codes := fun c => c = cmd ∧ c ≠ cmdRow ∧ c ≠ cmdRefresh) hst hcmd
    ⟨rfl, hrow, hrefresh⟩ hp, _, exec_rxEtxAccept hst hp, rfl⟩

/-! ### The pixels of a row (R54, R84, R151) -/

theorem setPixels_length (y x : Nat) (ls : List Bool) : (setPixels y x ls).length = ls.length := by
  induction ls generalizing x with
  | nil => rfl
  | cons l ls ih => exact congrArg (· + 1) (ih (x + 1))

/-- Call `i` sets pixel `i` from the start. -/
theorem setPixels_getElem? (y x i : Nat) (ls : List Bool) :
    (setPixels y x ls)[i]? = ls[i]?.map (DisplayCall.setPixel (x + i) y) := by
  induction ls generalizing x i with
  | nil => rfl
  | cons l ls ih =>
    cases i with
    | zero => rfl
    | succ i =>
      rw [setPixels, List.getElem?_cons_succ, List.getElem?_cons_succ, ih, Nat.add_right_comm, Nat.add_assoc]

/-- Pixel `k` of a byte is its bit `7 - k`. -/
theorem byteLevels_getElem? (b : Byte) {k : Nat} (hk : k < 8) : (byteLevels b)[k]? = some (b.getLsbD (7 - k)) := by
  interval_cases k <;> rfl

/-- Pixel `x` of a row is bit `7 - (x mod 8)` of byte `x / 8`. -/
theorem rowLevels_getElem? {bits : List Byte} {x : Nat} {b : Byte} (h : bits[x / 8]? = some b) :
    (rowLevels bits)[x]? = some (b.getLsbD (7 - x % 8)) := by
  induction bits generalizing x with
  | nil => cases h
  | cons b' bits ih =>
    have hlen : (byteLevels b').length = 8 := rfl
    rw [rowLevels, List.flatMap_cons, ← rowLevels]
    rcases Nat.lt_or_ge x 8 with hx | hx
    · rw [Nat.div_eq_of_lt hx] at h
      obtain rfl : b' = b := Option.some.inj h
      rw [List.getElem?_append_left (hlen ▸ hx), byteLevels_getElem? b' hx, Nat.mod_eq_of_lt hx]
    · rw [show x / 8 = (x - 8) / 8 + 1 by omega, List.getElem?_cons_succ] at h
      rw [List.getElem?_append_right (hlen ▸ hx), hlen, ih h, ← Nat.mod_eq_sub_mod hx]

/-- Settles O17: one call per pixel (`setPixels_getElem?`), and the pixel's bit (`rowLevels_getElem?`). -/
theorem rowPixelsAreMostSignificantBitFirst : Obligations.RowPixelsAreMostSignificantBitFirst := by
  intro c r bits hmod hlen
  refine ⟨?_, fun x b hb => ?_⟩
  · rw [dispatchCalls, setPixels_length, rowLevels_length, hlen]
    exact Nat.mul_div_cancel' (Nat.dvd_of_mod_eq_zero hmod)
  · rw [dispatchCalls, setPixels_getElem?, rowLevels_getElem? hb, Nat.zero_add]
    rfl

end Sys2Proof.Machine
end

section
/-! Whole frames (41_receiver.md R155, R156): a frame fed byte by byte from IDLE, up to its checksum, and the endings that its checksum
and end marker allow. -/

namespace Sys2Proof.Machine
variable {s : State} {L cmd b : Byte} {st : RxState} {bs ps : List Byte}

/-! ### A frame in progress -/

/-- `s` with its receiver in `rx_state` `st` after the bytes `bs` of a frame: buffered and folded, the last one answered `Pending`. -/
def State.buffered (s : State) (st : RxState) (bs : List Byte) : State :=
  ((s.setBuf (Memory.ofBytes 0 bs)).setReceiver st bs.length (foldXor bs)).emit [.result .pending]

@[simp] theorem buffered_cfg (s : State) (st : RxState) (bs : List Byte) : (s.buffered st bs).cfg = s.cfg := rfl
@[simp] theorem buffered_rxState (s : State) (st : RxState) (bs : List Byte) : (s.buffered st bs).rxState = st := rfl

theorem buffered_read (a : Nat) : (s.buffered st bs).rxBuf.read a = bs[a]? := by
  show (Memory.ofBytes 0 bs).read a = bs[a]?
  rw [Memory.read_ofBytes, if_pos (Nat.zero_le a), Nat.sub_zero]

theorem buffered_memRead {a : Nat} (ha : a < s.cfg.rxBufCap) (h : bs[a]? = some b) : (s.buffered st bs).memRead a = .ok b :=
  memRead_ok ha ((buffered_read a).trans h)

/-- A byte stored at `rx_count` and folded in is one more byte of the frame. -/
theorem buffered_store (s : State) (st st' : RxState) (bs : List Byte) (b : Byte) :
    (((s.buffered st bs).setBuf ((s.buffered st bs).rxBuf.write bs.length b)).setReceiver st' (bs.length + 1)
      (foldXor bs ^^^ b)).emit [.result .pending] = s.buffered st' (bs ++ [b]) := by
  have hwrite : (Memory.ofBytes 0 bs).write bs.length b = Memory.ofBytes 0 (bs ++ [b]) := by
    rw [← Memory.write_ofBytes_end, Nat.zero_add]
  rw [State.buffered, State.buffered, ← hwrite, foldXor_concat, List.length_append]
  rfl

/-- R30: an idle receiver of the invariant is as after a frame reset. -/
theorem frameReset_of_idle (hs : s.RxInv) (hst : s.rxState = .idle) : s.frameReset = s := by
  obtain ⟨_, _, hrow⟩ := hs
  simp only [State.stateRow, hst] at hrow
  obtain ⟨hcount, hbuf, hacc⟩ := hrow
  cases s
  simp_all [State.frameReset, State.setReceiver, State.setBuf]

/-- A frame that is discarded or accepted leaves the block as it was in IDLE, but for the outputs. -/
theorem buffered_frameReset_emit (hs : s.RxInv) (hst : s.rxState = .idle) (es : List OutEvent) :
    (s.buffered st bs).frameReset.emit es = s.emit es :=
  calc (s.buffered st bs).frameReset.emit es = s.frameReset.emit es := rfl
    _ = s.emit es := by rw [frameReset_of_idle hs hst]

/-! ### One byte of a frame -/

theorem feeds_cons (b : Byte) (bs : List Byte) : feeds (b :: bs) = opWord 0x1#4 b :: feeds bs := rfl

theorem feeds_append (bs cs : List Byte) : feeds (bs ++ cs) = feeds bs ++ feeds cs := by
  simp [feeds, scriptWords]

theorem step_feed {d : Byte} {i : Instr} (h : selectRx d s = .ok i) : step (s.present (opWord 0x1#4 d)) = exec i s :=
  step_present_ok (decodeOp_of_selectRx h)

theorem step_startMarker (hs : s.RxInv) (hst : s.rxState = .idle) (hcap : 0 < s.cfg.rxBufCap) :
    step (s.present (opWord 0x1#4 stx)) = .next (s.buffered .lengthNext [stx]) := by
  have hbuf : s.rxBuf = [] := by rw [← frameReset_of_idle hs hst, frameReset_rxBuf]
  rw [step_feed (selectRx_idleStart hst), exec_rxIdleStart hst hcap, hbuf]
  rfl

theorem step_length (hpos : 1 ≤ L.toNat) (hfits : 2 + L.toNat ≤ s.cfg.rxBufCap) :
    step ((s.buffered .lengthNext [stx]).present (opWord 0x1#4 L)) = .next (s.buffered .dataNext [stx, L]) := by
  have hst : (s.buffered .lengthNext [stx]).rxState = .lengthNext := buffered_rxState _ _ _
  rw [step_feed (selectRx_lenAccept hst hpos hfits), exec_rxLenAccept hst hpos hfits]
  exact congrArg _ (buffered_store s .lengthNext .dataNext [stx] L)

theorem step_payload (hmore : ps.length + 1 < L.toNat) (hfits : 2 + L.toNat ≤ s.cfg.rxBufCap) :
    step ((s.buffered .dataNext (stx :: L :: ps)).present (opWord 0x1#4 b)) =
      .next (s.buffered .dataNext (stx :: L :: (ps ++ [b]))) := by
  have hst : (s.buffered .dataNext (stx :: L :: ps)).rxState = .dataNext := buffered_rxState _ _ _
  have hL : (s.buffered .dataNext (stx :: L :: ps)).memRead 1 = .ok L := buffered_memRead (by omega) rfl
  have hn : ps.length + 2 + 1 < 2 + L.toNat := by omega
  have hcap : ps.length + 2 < s.cfg.rxBufCap := by omega
  rw [step_feed (selectRx_dataMore hst hL hn), exec_rxDataMore hst hL hn hcap]
  exact congrArg _ (buffered_store s .dataNext .dataNext (stx :: L :: ps) b)

theorem step_lastPayload (hlast : ps.length + 1 = L.toNat) (hfits : 2 + L.toNat ≤ s.cfg.rxBufCap) :
    step ((s.buffered .dataNext (stx :: L :: ps)).present (opWord 0x1#4 b)) =
      .next (s.buffered .checksumNext (stx :: L :: (ps ++ [b]))) := by
  have hst : (s.buffered .dataNext (stx :: L :: ps)).rxState = .dataNext := buffered_rxState _ _ _
  have hL : (s.buffered .dataNext (stx :: L :: ps)).memRead 1 = .ok L := buffered_memRead (by omega) rfl
  have hn : ps.length + 2 + 1 = 2 + L.toNat := by omega
  have hcap : ps.length + 2 < s.cfg.rxBufCap := by omega
  rw [step_feed (selectRx_dataLast hst hL hn), exec_rxDataLast hst hL hn hcap]
  exact congrArg _ (buffered_store s .dataNext .checksumNext (stx :: L :: ps) b)

theorem step_checksum :
    step ((s.buffered .checksumNext bs).present (opWord 0x1#4 (foldXor bs))) = .next (s.buffered .etxNext bs) := by
  have hst : (s.buffered .checksumNext bs).rxState = .checksumNext := buffered_rxState _ _ _
  exact (step_feed (selectRx_ckMatch hst)).trans (exec_rxCkMatch hst)

theorem step_badStart (hst : s.rxState = .idle) (hb : b ≠ stx) :
    step (s.present (opWord 0x1#4 b)) = .next (s.emit [.reply nak, .result (.rejected .badStart)]) :=
  (step_feed (selectRx_idleReject hst hb)).trans (exec_rxIdleReject hst hb)

section
variable (hs : s.RxInv) (hst : s.rxState = .idle)
include hs hst

theorem step_badChecksum (hb : b ≠ foldXor bs) :
    step ((s.buffered .checksumNext bs).present (opWord 0x1#4 b)) =
      .next (s.emit [.reply nak, .result (.rejected .badChecksum)]) := by
  have hck : (s.buffered .checksumNext bs).rxState = .checksumNext := buffered_rxState _ _ _
  rw [step_feed (selectRx_ckMismatch hck hb), exec_rxCkMismatch hck hb]
  exact congrArg _ (buffered_frameReset_emit hs hst _)

theorem step_endMarker {p : Payload} (hp : (s.buffered .etxNext bs).classify = .ok p) :
    step ((s.buffered .etxNext bs).present (opWord 0x1#4 etx)) =
      .next (s.emit (dispatchEvents p ++ [.reply ack, .result (.accepted p)])) := by
  have hetx : (s.buffered .etxNext bs).rxState = .etxNext := buffered_rxState _ _ _
  rw [step_feed (selectRx_etxAccept hetx), exec_rxEtxAccept hetx hp]
  exact congrArg _ (buffered_frameReset_emit hs hst _)

theorem step_badEtx (hb : b ≠ etx) :
    step ((s.buffered .etxNext bs).present (opWord 0x1#4 b)) =
      .next (s.emit [.reply nak, .result (.rejected .badEtx)]) := by
  have hetx : (s.buffered .etxNext bs).rxState = .etxNext := buffered_rxState _ _ _
  rw [step_feed (selectRx_etxReject hetx hb), exec_rxEtxReject hetx hb]
  exact congrArg _ (buffered_frameReset_emit hs hst _)

end

/-! ### A frame up to its checksum -/

/-- The rest `qs` of a payload of which `ps` is buffered: every byte is answered `Pending`, and the checksum is awaited. -/
theorem runWords_payload (qs ps : List Byte) (hne : qs ≠ []) (hlen : ps.length + qs.length = L.toNat)
    (hfits : 2 + L.toNat ≤ s.cfg.rxBufCap) :
    runWords (feeds qs) (s.buffered .dataNext (stx :: L :: ps)) =
      some (s.buffered .checksumNext (stx :: L :: (ps ++ qs)), List.replicate qs.length [.result .pending]) := by
  induction qs generalizing ps with
  | nil => exact absurd rfl hne
  | cons q qs ih =>
    rw [List.length_cons] at hlen
    cases qs with
    | nil =>
      rw [feeds_cons, runWords_cons (step_lastPayload hlen hfits)]
      rfl
    | cons q' qs =>
      have hmore : ps.length + 1 < L.toNat := by rw [List.length_cons] at hlen; omega
      have hrest := ih (ps ++ [q]) (List.cons_ne_nil q' qs) (by rw [List.length_append, List.length_singleton]; omega)
      rw [feeds_cons, runWords_cons (step_payload hmore hfits), hrest, List.append_assoc]
      rfl

/-- The span the checksum covers, fed from IDLE. -/
theorem runWords_span (hs : s.RxInv) (hst : s.rxState = .idle) (hlen : ps.length = L.toNat) (hpos : 1 ≤ L.toNat)
    (hfits : 2 + L.toNat ≤ s.cfg.rxBufCap) :
    runWords (feeds (stx :: L :: ps)) s =
      some (s.buffered .checksumNext (stx :: L :: ps), List.replicate (ps.length + 2) [.result .pending]) := by
  have hne : ps ≠ [] := by rintro rfl; exact absurd hpos (by rw [← hlen]; decide)
  have hpayload := runWords_payload (s := s) ps [] hne (by rwa [List.length_nil, Nat.zero_add]) hfits
  rw [feeds_cons, runWords_cons (step_startMarker hs hst (by omega)), feeds_cons, runWords_cons (step_length hpos hfits),
    hpayload]
  rfl

/-! ### The endings of a frame -/

/-- A wrong checksum is rejected, and the end marker that follows finds the receiver in IDLE (R261). -/
theorem runWords_badChecksum (hs : s.RxInv) (hst : s.rxState = .idle) (hlen : ps.length = L.toNat) (hpos : 1 ≤ L.toNat)
    (hfits : 2 + L.toNat ≤ s.cfg.rxBufCap) (hb : b ≠ foldXor (stx :: L :: ps)) :
    runWords (feeds (stx :: L :: ps ++ [b, etx])) s =
      some (s.emit [.reply nak, .result (.rejected .badStart)],
        List.replicate (ps.length + 2) [.result .pending] ++
          [[.reply nak, .result (.rejected .badChecksum)], [.reply nak, .result (.rejected .badStart)]]) := by
  have hetx := step_badStart (s := s.emit [.reply nak, .result (.rejected .badChecksum)]) (b := etx) hst (by decide)
  rw [feeds_append]
  refine runWords_append (runWords_span hs hst hlen hpos hfits) ?_
  rw [feeds_cons, runWords_cons (step_badChecksum hs hst hb), feeds_cons, runWords_cons hetx]
  rfl

/-- A frame whose checksum matches ends with the step of the byte at its end marker, whatever that step outputs. -/
theorem runWords_goodChecksum {es : List OutEvent} (hs : s.RxInv) (hst : s.rxState = .idle) (hlen : ps.length = L.toNat)
    (hpos : 1 ≤ L.toNat) (hfits : 2 + L.toNat ≤ s.cfg.rxBufCap)
    (hlast : step ((s.buffered .etxNext (stx :: L :: ps)).present (opWord 0x1#4 b)) = .next (s.emit es)) :
    runWords (feeds (stx :: L :: ps ++ [foldXor (stx :: L :: ps), b])) s =
      some (s.emit es, List.replicate (ps.length + 3) [.result .pending] ++ [es]) := by
  rw [feeds_append, List.replicate_succ', List.append_assoc]
  refine runWords_append (runWords_span hs hst hlen hpos hfits) ?_
  rw [feeds_cons, runWords_cons step_checksum, feeds_cons, runWords_cons hlast]
  rfl

/-! ### The frame a conforming host builds (R80 to R82, R92) -/

/-- The length byte of a frame that fits is the length of its payload. -/
theorem frameLength_toNat {data : List Byte} (hs : s.Inv) (hfits : data.length + 3 ≤ s.cfg.rxBufCap) :
    (BitVec.ofNat 8 (1 + data.length)).toNat = data.length + 1 := by
  obtain ⟨⟨_, _, _, _, _, _, hcap, _⟩, _, _⟩ := hs
  rw [BitVec.toNat_ofNat, Nat.mod_eq_of_lt (by omega), Nat.add_comm]

/-- The payload of a row command that has a row index. -/
theorem payloadOf_row (c : Config) (r : Byte) (rest : List Byte) :
    payloadOf c cmdRow (r :: rest) =
      if rest.length < c.wb then .unrecognized cmdRow (BitVec.ofNat 8 (1 + (r :: rest).length)) .rowShort
      else if c.height ≤ r.toNat then .unrecognized cmdRow (BitVec.ofNat 8 (1 + (r :: rest).length)) .rowOutOfRange
      else .row r (rest.take c.wb) := rfl

/-- `classify()` of a buffered row frame: the entries from index 4 are the bytes after the row index. -/
theorem classifyRow_frameSpan {r : Byte} {rest : List Byte} (hs : s.Inv) (hfits : (r :: rest).length + 3 ≤ s.cfg.rxBufCap) :
    (s.buffered .etxNext (frameSpan cmdRow (r :: rest))).classifyRow (BitVec.ofNat 8 (1 + (r :: rest).length)) cmdRow =
      .ok (payloadOf s.cfg cmdRow (r :: rest)) := by
  have hlen : (BitVec.ofNat 8 (1 + (r :: rest).length)).toNat = rest.length + 1 + 1 := frameLength_toNat hs hfits
  rw [List.length_cons] at hfits
  have hr : (s.buffered .etxNext (frameSpan cmdRow (r :: rest))).memRead 3 = .ok r := buffered_memRead (by omega) rfl
  rw [payloadOf_row]
  split_ifs with hshort hrange
  · exact classifyRow_short (by rw [hlen, buffered_cfg]; omega)
  · exact classifyRow_outOfRange (by rw [hlen, buffered_cfg]; omega) hr hrange
  · have hbits : (s.buffered .etxNext (frameSpan cmdRow (r :: rest))).memReads 4 s.cfg.wb = .ok (rest.take s.cfg.wb) := by
      refine memReads_ok (by rw [buffered_cfg]; omega) (by rw [List.length_take]; omega) fun j hj => ?_
      rw [buffered_read, List.getElem?_take_of_lt hj, Nat.add_comm]
      rfl
    exact classifyRow_inRange (by rw [hlen, buffered_cfg]; omega) hr (Nat.lt_of_not_le hrange) hbits

/-- `classify()` of a buffered frame is the payload read off the frame. -/
theorem classify_frameSpan {data : List Byte} (hs : s.Inv) (hfits : data.length + 3 ≤ s.cfg.rxBufCap) :
    (s.buffered .etxNext (frameSpan cmd data)).classify = .ok (payloadOf s.cfg cmd data) := by
  rw [classify_eq (buffered_memRead (by omega) rfl) (buffered_memRead (by omega) rfl)]
  by_cases hrow : cmd = cmdRow
  · subst hrow
    rw [if_pos rfl]
    cases data with
    | nil => exact classifyRow_short (show 1 < 2 + s.cfg.wb by omega)
    | cons r rest => exact classifyRow_frameSpan hs hfits
  · rw [if_neg hrow, payloadOf.eq_def, if_neg hrow]
    split_ifs <;> rfl

/-- Settles O51: the row's payload and pixels; and a frame that fits runs through its span and its checksum to the end marker, where it is
classified as the payload it was built from. -/
theorem conformingFrameIsAccepted : Obligations.ConformingFrameIsAccepted := by
  refine ⟨fun c r bits hmod hlen hr => ⟨?_, fun x hx => ?_⟩, fun c => ⟨rfl, rfl⟩, fun s cmd data hs hst hfits => ?_⟩
  · rw [payloadOf_row, if_neg (Nat.not_lt.2 hlen.ge), if_neg (Nat.not_le.2 hr), ← hlen, List.take_length]
  · obtain ⟨_, hpixel⟩ := rowPixelsAreMostSignificantBitFirst c r bits hmod hlen
    have hwb : c.wb = c.width / 8 := rfl
    have hb := List.getElem?_eq_getElem (l := bits) (i := x / 8) (by omega)
    exact ⟨_, hb, hpixel x _ hb⟩
  · have ⟨_, hrx, _⟩ := hs
    have hlen := frameLength_toNat hs hfits
    exact runWords_goodChecksum (ps := cmd :: data) hrx hst hlen.symm (by omega) (by omega)
      (step_endMarker hrx hst (classify_frameSpan hs hfits))

/-! ### One corrupted byte (R156) -/

theorem modify_append_left {f : Byte → Byte} {i : Nat} (cs : List Byte) (hi : i < bs.length) :
    (bs ++ cs).modify i f = bs.modify i f ++ cs := by
  induction bs generalizing i with
  | nil => exact absurd hi (Nat.not_lt_zero i)
  | cons b bs ih =>
    cases i with
    | zero => rfl
    | succ i =>
      rw [List.cons_append, List.modify_succ_cons, List.modify_succ_cons, ih (Nat.lt_of_succ_lt_succ hi), List.cons_append]

theorem modify_append_right {f : Byte → Byte} (bs cs : List Byte) (i : Nat) :
    (bs ++ cs).modify (bs.length + i) f = bs ++ cs.modify i f := by
  induction bs with
  | nil => rw [List.length_nil, Nat.zero_add, List.nil_append, List.nil_append]
  | cons b bs ih =>
    rw [List.length_cons, Nat.add_right_comm, List.cons_append, List.modify_succ_cons, ih, List.cons_append]

theorem frameSpan_length (cmd : Byte) (data : List Byte) : (frameSpan cmd data).length = data.length + 3 := rfl

/-- A corrupted command or data byte, or a corrupted checksum byte, leaves a frame of the same length whose checksum byte is wrong. -/
theorem frameRaw_modify {data : List Byte} {i : Nat} {e : Byte} (h2 : 2 ≤ i) (hi : i < data.length + 4) (he : e ≠ 0x00#8) :
    ∃ ps b, (frameRaw cmd data).modify i (· ^^^ e) = stx :: BitVec.ofNat 8 (1 + data.length) :: ps ++ [b, etx] ∧
      ps.length = data.length + 1 ∧ b ≠ foldXor (stx :: BitVec.ofNat 8 (1 + data.length) :: ps) := by
  rcases Nat.lt_or_eq_of_le (Nat.le_of_lt_succ hi) with hspan | rfl
  · obtain ⟨j, rfl⟩ := Nat.exists_eq_add_of_le' h2
    have hfold := foldXor_modify e (frameSpan_length cmd data ▸ hspan)
    refine ⟨(cmd :: data).modify j (· ^^^ e), foldXor (frameSpan cmd data), ?_, List.length_modify _ _ _, ?_⟩
    · exact modify_append_left _ hspan
    · exact fun h => he (xor_left_eq_self_iff.1 (hfold.symm.trans h.symm))
  · refine ⟨cmd :: data, foldXor (frameSpan cmd data) ^^^ e, ?_, rfl, ?_⟩
    · exact modify_append_right (frameSpan cmd data) _ 0
    · exact fun h => he (xor_left_eq_self_iff.1 h)

/-- Settles O52: the corrupted frame is a frame with a wrong checksum byte (`frameRaw_modify`). -/
theorem corruptedPayloadOrChecksumByteIsNaked : Obligations.CorruptedPayloadOrChecksumByteIsNaked := by
  intro s cmd data i e hs hst hfits h2 hi he
  have ⟨_, hrx, _⟩ := hs
  have hlen := frameLength_toNat hs hfits
  obtain ⟨ps, b, hframe, hps, hb⟩ := frameRaw_modify (cmd := cmd) h2 hi he
  refine ⟨_, ?_, rfl⟩
  rw [hframe, runWords_badChecksum hrx hst (hps.trans hlen.symm) (by omega) (by omega) hb, hps]
  rfl

/-- Settles O53: the frame is as built up to its checksum, and the byte in the place of the end marker is rejected. -/
theorem corruptedEndMarkerIsNaked : Obligations.CorruptedEndMarkerIsNaked := by
  intro s cmd data e hs hst hfits he
  have ⟨_, hrx, _⟩ := hs
  have hlen := frameLength_toNat hs hfits
  have hetx : etx ^^^ e ≠ etx := fun h => he (xor_left_eq_self_iff.1 h)
  have hframe : (frameRaw cmd data).modify (data.length + 4) (· ^^^ e) =
      frameSpan cmd data ++ [foldXor (frameSpan cmd data), etx ^^^ e] :=
    modify_append_right (frameSpan cmd data) _ 1
  rw [hframe]
  exact runWords_goodChecksum (ps := cmd :: data) hrx hst hlen.symm (by omega) (by omega) (step_badEtx hrx hst hetx)

end Sys2Proof.Machine
end

section
/-! The receiver's way back to IDLE (41_receiver.md R121, R123, R158): every reply leaves it there, every byte brings it nearer, and
without a byte it stays where it is. -/

namespace Sys2Proof.Machine
variable {s t : State} {d L : Byte} {w : OpWord}

/-! ### After a reply (R121, R212) -/

/-- Replies are outputs of the receiver. -/
theorem repliesOf_filter_receiver (es : List OutEvent) : repliesOf (es.filter (emittedBy .receiver)) = repliesOf es := by
  induction es with
  | nil => rfl
  | cons e es ih => cases e <;> simp [List.filter_cons, emittedBy, repliesOf, ih]

/-- A case of RX_FEED that replies rejects or accepts. -/
theorem FeedCase.idle_of_reply (h : FeedCase d s t) (hr : repliesOf t.out ≠ []) : t.rxState = .idle := by
  cases h with
  | idleReject hst _ ht =>
    rw [ht]
    exact hst
  | lenZero _ _ ht | lenOversize _ _ ht | ckMismatch _ _ ht | etxReject _ _ ht | etxAccept _ _ _ _ ht =>
    rw [ht]
    rfl
  | idleStart _ _ _ ht | lenAccept _ _ _ ht | dataMore _ _ _ _ _ ht | dataLast _ _ _ _ _ ht | ckMatch _ _ ht =>
    rw [ht] at hr
    exact absurd rfl hr

theorem WordCase.idle_of_reply (h : WordCase w s t) (hr : repliesOf t.out ≠ []) : t.rxState = .idle := by
  rcases h.receiver_cases with ⟨_, _, rfl⟩ | ⟨_, _, hfeed⟩ | ⟨_, _, hout⟩
  · rfl
  · exact hfeed.idle_of_reply hr
  · rw [← repliesOf_filter_receiver, hout] at hr
    exact absurd rfl hr

/-- Settles O46: a step that replied leads to IDLE, where the invariant says that the receiver is empty (R30). -/
theorem everyReplyLeavesTheReceiverReset : Obligations.EveryReplyLeavesTheReceiverReset := by
  intro s t hs h hr
  have hidle : t.rxState = .idle := by
    rcases step_cases h with ⟨_, rfl⟩ | ⟨w, ws, _, hw⟩
    · exact absurd rfl hr
    · exact hw.idle_of_reply hr
  obtain ⟨_, ⟨_, _, hrow⟩, _⟩ := step_inv h hs
  simp only [State.stateRow, hidle] at hrow
  obtain ⟨hcount, hbuf, hacc⟩ := hrow
  exact ⟨hidle, hcount, hacc, fun a => by rw [hbuf, Memory.read_nil]⟩

/-! ### R158's bound -/

theorem returnBound_lengthNext (hst : s.rxState = .lengthNext) : s.returnBound = s.cfg.rxBufCap + 1 := by
  simp only [State.returnBound, hst]

theorem returnBound_dataNext (hst : s.rxState = .dataNext) (hL : s.rxBuf.read 1 = some L) :
    s.returnBound = 2 + L.toNat - s.rxCount + 2 := by
  simp only [State.returnBound, hst, hL]

theorem returnBound_checksumNext (hst : s.rxState = .checksumNext) : s.returnBound = 2 := by
  simp only [State.returnBound, hst]

theorem returnBound_etxNext (hst : s.rxState = .etxNext) : s.returnBound = 1 := by
  simp only [State.returnBound, hst]

/-- Inside a frame at least one more byte is awaited. -/
theorem returnBound_pos (hs : s.RxInv) (hst : s.rxState ≠ .idle) : 1 ≤ s.returnBound := by
  cases h : s.rxState with
  | idle => exact absurd h hst
  | lengthNext => rw [returnBound_lengthNext h]; omega
  | dataNext =>
    obtain ⟨L, hL, _⟩ := dataNext_length hs h
    rw [returnBound_dataNext h (memRead_ok_iff.1 hL).2]
    omega
  | checksumNext => rw [returnBound_checksumNext h]; decide
  | etxNext => rw [returnBound_etxNext h]

/-- Every byte inside a frame ends it with a reply, or brings its end nearer. -/
theorem FeedCase.returns_or_nearer (h : FeedCase d s t) (hs : s.RxInv) (hst : s.rxState ≠ .idle) :
    (t.rxState = .idle ∧ repliesOf t.out ≠ []) ∨ (t.rxState ≠ .idle ∧ t.returnBound < s.returnBound) := by
  cases h with
  | idleStart hidle _ _ _ | idleReject hidle _ _ => exact absurd hidle hst
  | lenZero _ _ ht | lenOversize _ _ ht | ckMismatch _ _ ht | etxReject _ _ ht =>
    subst ht
    exact .inl ⟨rfl, List.cons_ne_nil _ _⟩
  | etxAccept _ _ _ _ ht =>
    subst ht
    exact .inl ⟨rfl, by simp [repliesOf]⟩
  | lenAccept hlength _ hfits ht =>
    have hst' : t.rxState = .dataNext := by rw [ht]; rfl
    have hL : t.rxBuf.read 1 = some d := by rw [ht]; exact Memory.read_write_self _ _ _
    have hcount : t.rxCount = 2 := by rw [ht]; rfl
    rw [returnBound_dataNext hst' hL, returnBound_lengthNext hlength, hst', hcount]
    exact .inr ⟨nofun, by omega⟩
  | dataMore hdata L' hL' hn _ ht =>
    obtain ⟨L, hL, h2, hlt, _⟩ := dataNext_length hs hdata
    have hread := (memRead_ok_iff.1 hL).2
    have hst' : t.rxState = .dataNext := by rw [ht]; rfl
    have hread' : t.rxBuf.read 1 = some L := by
      rw [ht]
      exact (Memory.read_write_ne _ (by omega) d).trans hread
    have hcount : t.rxCount = s.rxCount + 1 := by rw [ht]; rfl
    rw [returnBound_dataNext hst' hread', returnBound_dataNext hdata hread, hst', hcount]
    exact .inr ⟨nofun, by omega⟩
  | dataLast hdata L hL hn _ ht =>
    have hst' : t.rxState = .checksumNext := by rw [ht]; rfl
    rw [returnBound_checksumNext hst', returnBound_dataNext hdata (memRead_ok_iff.1 hL).2, hst']
    exact .inr ⟨nofun, by omega⟩
  | ckMatch hck _ ht =>
    have hst' : t.rxState = .etxNext := by rw [ht]; rfl
    rw [returnBound_etxNext hst', returnBound_checksumNext hck, hst']
    exact .inr ⟨nofun, by decide⟩

/-! ### Runs of bytes, and runs without -/

theorem feedCase_of_step (h : step (s.present (opWord 0x1#4 d)) = .next t) : FeedCase d s t := by
  rcases (step_present_cases h).receiver_cases with ⟨_, hw, _⟩ | ⟨_, hw, hfeed⟩ | ⟨hop, _⟩
  · exact absurd (opWord_inj.1 hw).1 (by decide)
  · obtain ⟨_, rfl⟩ := opWord_inj.1 hw
    exact hfeed
  · exact absurd (opOf_opWord _ _) hop

/-- A state of the invariant takes a step on every byte: an RX_FEED word is not reserved. -/
theorem step_feed_next (hs : s.Inv) (d : Byte) : ∃ t, step (s.present (opWord 0x1#4 d)) = .next t := by
  rcases onlyReservedWordsStopAStep _ (inv_setPending (opWord 0x1#4 d :: s.pending) hs) with h | ⟨w, ws, hp, hw, _⟩
  · exact h
  · obtain ⟨rfl, _⟩ := List.cons.inj hp
    rw [opOf_opWord] at hw
    exact absurd hw (by decide)

/-- By induction on the bytes: each is the last of the frame or brings its end nearer (`FeedCase.returns_or_nearer`). -/
theorem runWords_returns (ds : List Byte) (hs : s.Inv) (hst : s.rxState ≠ .idle) (hlen : s.returnBound ≤ ds.length) :
    ∃ k t os, 1 ≤ k ∧ k ≤ s.returnBound ∧ runWords (feeds (ds.take k)) s = some (t, os) ∧
      t.rxState = .idle ∧ repliesOf t.out ≠ [] := by
  induction ds generalizing s with
  | nil =>
    obtain ⟨_, hrx, _⟩ := hs
    exact absurd ((returnBound_pos hrx hst).trans hlen) (by decide)
  | cons d ds ih =>
    have ⟨_, hrx, _⟩ := hs
    obtain ⟨u, hstep⟩ := step_feed_next hs d
    rcases (feedCase_of_step hstep).returns_or_nearer hrx hst with hreturned | ⟨hst', hnearer⟩
    · refine ⟨1, u, [u.out], le_rfl, returnBound_pos hrx hst, ?_, hreturned⟩
      rw [List.take_succ_cons, feeds_cons, runWords_cons hstep]
      rfl
    · have hu : u.Inv := step_inv hstep (inv_setPending _ hs)
      rw [List.length_cons] at hlen
      obtain ⟨k, t, os, _, hk, hrun, hreturned⟩ := ih hu hst' (by omega)
      refine ⟨k + 1, t, u.out :: os, Nat.le_add_left 1 k, by omega, ?_, hreturned⟩
      rw [List.take_succ_cons, feeds_cons, runWords_cons hstep, hrun]
      rfl

/-- R123: without RX_FEED and RESET the receiver does nothing. -/
theorem runWords_receiver_frame {ws : List OpWord} {os : List (List OutEvent)}
    (hws : ∀ w ∈ ws, concerns .receiver w = false) (h : runWords ws s = some (t, os)) :
    t.view .receiver = s.view .receiver ∧ repliesOf os.flatten = [] := by
  induction ws generalizing s os with
  | nil =>
    cases h
    exact ⟨rfl, rfl⟩
  | cons w ws ih =>
    obtain ⟨u, os', hstep, hrun, rfl⟩ := runWords_cons_some h
    obtain ⟨hw, hws⟩ := List.forall_mem_cons.1 hws
    obtain ⟨hview, hout⟩ := (step_present_cases hstep).frame (ne_true_of_eq_false hw)
    obtain ⟨hview', hreplies⟩ := ih hws hrun
    refine ⟨hview'.trans hview, ?_⟩
    rw [List.flatten_cons, repliesOf_append, hreplies, ← repliesOf_filter_receiver, hout]
    rfl

/-- Settles O55: a step on every byte, the run back to IDLE, and the run without bytes. -/
theorem receiverReturnsToIdleWithinTheBound : Obligations.ReceiverReturnsToIdleWithinTheBound :=
  ⟨fun _ d hs => step_feed_next hs d, fun _ ds hs hst hlen => runWords_returns ds hs hst hlen.ge,
    fun _ _ _ _ hws h => runWords_receiver_frame hws h⟩

end Sys2Proof.Machine
end

section
/-! The run-length codec case by case (42_rle_codec.md R170 to R182): which case a byte selects, and what that case does. -/

namespace Sys2Proof.Machine
variable {s : State} {d : Byte}

/-! ### The case a byte selects (R73) -/

theorem selectEnc_tail (hp : s.encPos ≠ 0) : selectEnc d s = .ok (.encTail d) := if_pos hp

theorem selectEnc_mismatch (hp : s.encPos = 0) (hd : d ≠ s.encValue) : selectEnc d s = .ok (.encMismatch d) := by
  rw [selectEnc, if_neg (not_not_intro hp), if_pos hd]

theorem selectEnc_match (hp : s.encPos = 0) (hc : s.encCount < rleMaxRun) :
    selectEnc s.encValue s = .ok (.encMatch s.encValue) := by
  rw [selectEnc, if_neg (not_not_intro hp), if_neg (not_not_intro rfl), if_pos hc]

theorem selectEnc_cap (hp : s.encPos = 0) (hc : s.encCount = rleMaxRun) :
    selectEnc s.encValue s = .ok (.encCap s.encValue) := by
  rw [selectEnc, if_neg (not_not_intro hp), if_neg (not_not_intro rfl), hc, if_neg (by decide), if_pos rfl]

theorem selectDec_run (hd : d ≠ rleCap) : selectDec d = .decRun d := if_neg hd

theorem selectDec_sentinel : selectDec rleCap = .decEnd := if_pos rfl

/-! ### What the selected case does -/

theorem exec_encTail (hp : s.encPos ≠ 0) (d : Byte) :
    exec (.encTail d) s = .next ((s.setEnc s.encValue s.encCount (advancePos s)).emit []) :=
  whenGuard_pos (g := encTailGuard s) hp _

theorem exec_encMismatch (hp : s.encPos = 0) (hd : d ≠ s.encValue) :
    exec (.encMismatch d) s = .next ((s.setEnc d 1#8 (advancePos s)).emit [.count s.encCount]) :=
  whenGuard_pos ⟨hp, hd⟩ _

theorem exec_encMatch (hp : s.encPos = 0) (hc : s.encCount < rleMaxRun) :
    exec (.encMatch s.encValue) s = .next ((s.setEnc s.encValue (s.encCount + 1#8) (advancePos s)).emit []) :=
  whenGuard_pos ⟨hp, rfl, hc⟩ _

theorem exec_encCap (hp : s.encPos = 0) (hc : s.encCount = rleMaxRun) :
    exec (.encCap s.encValue) s =
      .next ((s.setEnc s.encValue 1#8 (advancePos s)).emit [.count rleMaxRun, .count 0#8]) :=
  whenGuard_pos ⟨hp, rfl, hc⟩ _

theorem exec_encEnd (s : State) (d : Byte) :
    exec (.encEnd d) s = .next ((s.setEnc s.cfg.rleV0 0#8 0).emit [.count s.encCount, .count rleCap]) := rfl

theorem exec_decRun (hd : d ≠ rleCap) :
    exec (.decRun d) s = .next ((s.setDec (!s.decParity)).emit [.run (runValue s.cfg s.decParity) d.toNat]) :=
  whenGuard_pos (g := decRunGuard d) hd _

theorem exec_decEnd (s : State) : exec .decEnd s = .next ((s.setDec false).emit [.streamEnd]) := rfl

/-! ### The encoder (R172 to R176) -/

theorem decodeOp_of_selectEnc {i : Instr} (h : selectEnc d s = .ok i) : decodeOp (opWord 0x4#4 d) s = .ok i :=
  (decodeOp_encByte s d).trans h

/-- Settles O26: inside a record every byte selects the case; with one byte in a record the invariant leaves no inside. -/
theorem nonLeadingByteOnlyMovesThePosition : Obligations.NonLeadingByteOnlyMovesThePosition := by
  refine ⟨fun s d hp => ⟨decodeOp_of_selectEnc (selectEnc_tail hp), exec_encTail hp d⟩, fun s d hs hrec h => ?_⟩
  obtain ⟨_, _, _, hpos, _⟩ := hs
  obtain ⟨hguard, _⟩ := decodeOp_guard h
  have hne : s.encPos ≠ 0 := hguard
  omega

/-- Settles O27: below the cap the 8-bit count plus one does not wrap around. -/
theorem matchingLeadingByteCounts : Obligations.MatchingLeadingByteCounts := by
  intro s hp hc
  have hlt : s.encCount < rleMaxRun := BitVec.lt_def.2 hc
  have hcount : (s.encCount + 1#8).toNat = s.encCount.toNat + 1 := by bv_omega
  exact ⟨decodeOp_of_selectEnc (selectEnc_match hp hlt), s.encCount + 1#8, hcount, exec_encMatch hp hlt⟩

/-- Settles O28: at the cap the byte selects ENC.CAP. -/
theorem cappedRunIsSplit : Obligations.CappedRunIsSplit :=
  fun _ hp hc => ⟨decodeOp_of_selectEnc (selectEnc_cap hp hc), exec_encCap hp hc⟩

/-- Settles O29: another byte selects ENC.MISMATCH, and the invariant bounds the count it emits. -/
theorem mismatchingLeadingByteEndsTheRun : Obligations.MismatchingLeadingByteEndsTheRun := by
  refine ⟨fun s d hp hd => ⟨decodeOp_of_selectEnc (selectEnc_mismatch hp hd), exec_encMismatch hp hd⟩, fun s hs => ?_⟩
  obtain ⟨_, _, hmax, _⟩ := hs
  exact BitVec.le_def.1 hmax

/-- Settles O30: ENC.END has no guard and does not read `enc_pos`. -/
theorem endOfStreamEmitsCountAndSentinel : Obligations.EndOfStreamEmitsCountAndSentinel :=
  fun s d => ⟨decodeOp_encEnd s d, exec_encEnd s d⟩

/-! ### The decoder (R181, R182) -/

/-- The run's value as R181 writes it. -/
theorem runValue_eq_ite (c : Config) (parity : Bool) :
    runValue c parity = if parity = false then c.rleV0 else c.rleV1 := by
  cases parity <;> rfl

/-- Settles O31: a count that is not the sentinel selects DEC.RUN. -/
theorem runCountEmitsARun : Obligations.RunCountEmitsARun := by
  intro s d hd
  rw [decodeOp_decCount, selectDec_run hd, exec_decRun hd, runValue_eq_ite]
  exact ⟨rfl, rfl⟩

/-- Settles O32: `0x6FF` is the DEC_COUNT word of the sentinel. -/
theorem sentinelEndsTheStream : Obligations.SentinelEndsTheStream := by
  intro s
  have hword : 0x6FF#12 = opWord 0x6#4 rleCap := by decide
  rw [hword, decodeOp_decCount, selectDec_sentinel]
  exact ⟨rfl, exec_decEnd s⟩

end Sys2Proof.Machine
end

section
/-! Whole run-length streams (42_rle_codec.md R178, R186): the counts a stream of records has still to give, from any point of it, which
both the encoder's run and the decoder's run follow record by record. -/

namespace Sys2Proof.Machine
variable {s : State} {l v n : Byte} {ls : List Byte}

/-! ### The streams of an output list -/

@[simp] theorem countsOf_append (es fs : List OutEvent) : countsOf (es ++ fs) = countsOf es ++ countsOf fs := by
  induction es with
  | nil => rfl
  | cons e es ih => cases e <;> simp [countsOf, ih]

/-! ### The counts of a list of runs (R178) -/

/-- A run that is not split. -/
theorem runCounts_of_le {k : Nat} (hk : k ≤ 254) : runCounts k = [BitVec.ofNat 8 k] := by
  have hq : (k - 1) / 254 = 0 := by omega
  simp [runCounts, hq]

/-- A run that is longer by 254 is split once more. -/
theorem runCounts_add {k : Nat} (hk : 1 ≤ k) : runCounts (k + 254) = rleMaxRun :: 0#8 :: runCounts k := by
  have hq : (k + 254 - 1) / 254 = (k - 1) / 254 + 1 := by omega
  have hrest : k + 254 - 254 * ((k - 1) / 254 + 1) = k - 254 * ((k - 1) / 254) := by omega
  rw [runCounts, hq, hrest, List.replicate_succ]
  rfl

/-- Every count of a run is at most 254. -/
theorem le_of_mem_runCounts {k : Nat} {c : Byte} (h : c ∈ runCounts k) : c.toNat ≤ 254 := by
  rcases List.mem_append.1 h with hpair | hlast
  · obtain ⟨pair, hpair, hc⟩ := List.mem_flatten.1 hpair
    rw [List.eq_of_mem_replicate hpair] at hc
    rcases List.mem_pair.1 hc with rfl | rfl <;> decide
  · obtain rfl := List.mem_singleton.1 hlast
    rw [BitVec.toNat_ofNat]
    omega

/-- The counts of the runs of equal bytes in `ls`, one run after another. -/
def runsCounts (ls : List Byte) : List Byte := (ls.splitBy (· == ·)).flatMap fun run => runCounts run.length

theorem runsCounts_replicate {k : Nat} (hk : 1 ≤ k) (v : Byte) : runsCounts (List.replicate k v) = runCounts k := by
  have hne : List.replicate k v ≠ [] := fun h => by simp at h; omega
  have hchain : (List.replicate k v).IsChain fun x y => (x == y) = true := List.isChain_replicate_of_rel k (beq_self_eq_true v)
  rw [runsCounts, List.splitBy_of_isChain hne hchain, List.flatMap_singleton, List.length_replicate]

/-- A byte that differs from the run before it starts a run of its own. -/
theorem runsCounts_replicate_cons {k : Nat} (hk : 1 ≤ k) (hl : l ≠ v) (ls : List Byte) :
    runsCounts (List.replicate k v ++ l :: ls) = runCounts k ++ runsCounts (l :: ls) := by
  have hlast : ∀ x ∈ (List.replicate k v).getLast?, (x == l) = false := fun x hx => by
    rw [List.eq_of_mem_replicate (List.mem_of_mem_getLast? hx)]
    exact beq_false_of_ne hl.symm
  rw [← runsCounts_replicate hk v]
  simp only [runsCounts, List.splitBy_append_cons ls hlast, List.flatMap_append]

/-- A byte that continues the run before it. -/
theorem replicate_append_cons_self (k : Nat) (v : Byte) (ls : List Byte) :
    List.replicate k v ++ v :: ls = List.replicate (k + 1) v ++ ls := by
  rw [List.replicate_succ', List.append_assoc, List.singleton_append]

/-- A first run that is longer by 254 is split once more, wherever it ends. -/
theorem runsCounts_replicate_add {k : Nat} (hk : 1 ≤ k) (v : Byte) (ls : List Byte) :
    runsCounts (List.replicate (k + 254) v ++ ls) = rleMaxRun :: 0#8 :: runsCounts (List.replicate k v ++ ls) := by
  induction ls generalizing k with
  | nil =>
    rw [List.append_nil, List.append_nil, runsCounts_replicate (by omega), runsCounts_replicate hk, runCounts_add hk]
  | cons l ls ih =>
    by_cases hl : l = v
    · subst hl
      rw [replicate_append_cons_self, replicate_append_cons_self, ← ih (by omega), Nat.add_right_comm]
    · rw [runsCounts_replicate_cons (by omega) hl, runsCounts_replicate_cons hk hl, runCounts_add hk]
      rfl

/-! ### The counts still to come -/

/-- The counts a stream has still to give where the run in progress holds `n` bytes `v`, all its earlier splits given, and the leading
bytes `ls` follow. A run in progress of length 0 is the start of a stream: it is given as a count only if it stays empty. -/
def pendingCounts (v n : Byte) (ls : List Byte) : List Byte :=
  (if n = 0#8 ∧ ls.head? ≠ some v then [0#8] else []) ++ runsCounts (List.replicate n.toNat v ++ ls) ++ [rleCap]

/-- R178's count stream is what is to come at the start of a stream. -/
theorem streamCounts_eq_pendingCounts (c : Config) (ls : List Byte) : streamCounts c ls = pendingCounts c.rleV0 0#8 ls := by
  simp only [streamCounts, pendingCounts, true_and, ite_not]
  rfl

theorem one_le_rleMaxRun : 1#8 ≤ rleMaxRun := by decide

theorem one_le_of_ne_zero (h0 : n ≠ 0#8) : 1 ≤ n.toNat := by bv_omega

/-- A run in progress below the cap is one count. -/
theorem runCounts_toNat (hn : n ≤ rleMaxRun) : runCounts n.toNat = [n] := by
  rw [runCounts_of_le (BitVec.le_def.1 hn), BitVec.ofNat_toNat, BitVec.setWidth_eq]

/-- The end of the stream (R176). -/
theorem pendingCounts_nil (hn : n ≤ rleMaxRun) : pendingCounts v n [] = [n, rleCap] := by
  by_cases h0 : n = 0#8
  · subst h0
    rfl
  · rw [pendingCounts, if_neg (fun h => h0 h.1), List.append_nil, runsCounts_replicate (one_le_of_ne_zero h0),
      runCounts_toNat hn]
    rfl

/-- A byte that lengthens the run in progress (R173). -/
theorem pendingCounts_match (hn : n < rleMaxRun) : pendingCounts v n (v :: ls) = pendingCounts v (n + 1#8) ls := by
  have hsucc : (n + 1#8).toNat = n.toNat + 1 := by bv_omega
  have hne : n + 1#8 ≠ 0#8 := by bv_omega
  rw [pendingCounts, pendingCounts, if_neg (fun h => h.2 rfl), if_neg (fun h => hne h.1), hsucc, replicate_append_cons_self]

/-- A byte that splits the run in progress (R174). -/
theorem pendingCounts_cap : pendingCounts v rleMaxRun (v :: ls) = rleMaxRun :: 0#8 :: pendingCounts v 1#8 ls := by
  have hsplit : runsCounts (List.replicate 254 v ++ v :: ls) = rleMaxRun :: 0#8 :: runsCounts (List.replicate 1 v ++ ls) := by
    rw [replicate_append_cons_self]
    exact runsCounts_replicate_add le_rfl v ls
  rw [pendingCounts, pendingCounts, if_neg (fun h => h.2 rfl), if_neg (fun h => absurd h.1 (by decide))]
  exact congrArg (· ++ [rleCap]) hsplit

/-- A byte that ends the run in progress, an empty one too (R175). -/
theorem pendingCounts_mismatch (hn : n ≤ rleMaxRun) (hl : l ≠ v) : pendingCounts v n (l :: ls) = n :: pendingCounts l 1#8 ls := by
  have hrun : pendingCounts l 1#8 ls = runsCounts (l :: ls) ++ [rleCap] := by
    rw [pendingCounts, if_neg (fun h => absurd h.1 (by decide))]
    rfl
  rw [hrun]
  by_cases h0 : n = 0#8
  · subst h0
    rw [pendingCounts, if_pos ⟨rfl, fun h => hl (Option.some.inj h)⟩]
    rfl
  · rw [pendingCounts, if_neg (fun h => h0 h.1), runsCounts_replicate_cons (one_le_of_ne_zero h0) hl, runCounts_toNat hn]
    rfl

/-! ### The encoder's run over a stream -/

theorem step_encMatch (hp : s.encPos = 0) (hl : l = s.encValue) (hlt : s.encCount < rleMaxRun) :
    step (s.present (ScriptLine.encByte l).word) =
      .next ((s.setEnc s.encValue (s.encCount + 1#8) (advancePos s)).emit []) := by
  subst hl
  exact (step_present_ok (decodeOp_of_selectEnc (selectEnc_match hp hlt))).trans (exec_encMatch hp hlt)

theorem step_encCap (hp : s.encPos = 0) (hl : l = s.encValue) (hcap : s.encCount = rleMaxRun) :
    step (s.present (ScriptLine.encByte l).word) =
      .next ((s.setEnc s.encValue 1#8 (advancePos s)).emit [.count rleMaxRun, .count 0#8]) := by
  subst hl
  exact (step_present_ok (decodeOp_of_selectEnc (selectEnc_cap hp hcap))).trans (exec_encCap hp hcap)

theorem step_encMismatch (hp : s.encPos = 0) (hl : l ≠ s.encValue) :
    step (s.present (ScriptLine.encByte l).word) =
      .next ((s.setEnc l 1#8 (advancePos s)).emit [.count s.encCount]) :=
  (step_present_ok (decodeOp_of_selectEnc (selectEnc_mismatch hp hl))).trans (exec_encMismatch hp hl)

/-- A record whose leading byte leaves value `v` and count `n` ends at the next boundary with these, and gives the leading byte's
outputs only. -/
theorem runWords_record {d : Byte} {tail : List Byte} {es : List OutEvent} (hp : s.encPos = 0)
    (hstep : step (s.present (ScriptLine.encByte d).word) = .next ((s.setEnc v n (advancePos s)).emit es))
    (htail : tail.length + 1 = s.cfg.recordBytes) :
    ∃ es', runWords (encRecord d tail) s =
      some ((s.setEnc v n 0).emit es', es :: List.replicate tail.length []) := by
  have hpos : advancePos s = (s.cfg.recordBytes - tail.length) % s.cfg.recordBytes := by
    rw [advancePos, hp]
    congr 1
    omega
  obtain ⟨t, ht, hrun⟩ := runWords_nonLeading (s := (s.setEnc v n (advancePos s)).emit es) tail.length
    (by rw [emit_cfg, setEnc_cfg]; omega) hpos
  refine ⟨t.out, ?_⟩
  rw [encRecord_eq_cons, runWords_cons hstep, hrun tail rfl, ht]
  rfl

/-- Records and the end of the stream, presented in `s`, give the counts `cs` and leave the encoder ready for the next stream, everything
else but the outputs as in `s`. -/
def EncodesTo (s : State) (recs : List (Byte × List Byte)) (cs : List Byte) : Prop :=
  ∃ t os, runWords (recs.flatMap (fun r => encRecord r.1 r.2) ++ [ScriptLine.encEnd.word]) s = some (t, os) ∧
    countsOf os.flatten = cs ∧ t = (s.setEnc s.cfg.rleV0 0#8 0).emit t.out

theorem encodesTo_nil (s : State) : EncodesTo s [] [s.encCount, rleCap] :=
  ⟨_, _, runWords_cons ((step_present_ok (decodeOp_encEnd s 0x00#8)).trans (exec_encEnd s 0x00#8)), rfl, rfl⟩

/-- The first record gives the counts of its leading byte's step; the rest is encoded from the value and count it leaves. -/
theorem EncodesTo.cons {r : Byte × List Byte} {recs : List (Byte × List Byte)} {cs : List Byte} {es : List OutEvent}
    (hp : s.encPos = 0) (hr : r.2.length + 1 = s.cfg.recordBytes)
    (hstep : step (s.present (ScriptLine.encByte r.1).word) = .next ((s.setEnc v n (advancePos s)).emit es))
    (hrest : ∀ es', EncodesTo ((s.setEnc v n 0).emit es') recs cs) : EncodesTo s (r :: recs) (countsOf es ++ cs) := by
  obtain ⟨es', hrecord⟩ := runWords_record hp hstep hr
  obtain ⟨t, os, hrun, hcounts, ht⟩ := hrest es'
  refine ⟨t, (es :: List.replicate r.2.length []) ++ os, ?_, ?_, ht⟩
  · rw [List.flatMap_cons, List.append_assoc]
    exact runWords_append hrecord hrun
  · simp [hcounts]

/-- From any record boundary the encoder gives the counts still to come, by induction on the records and the case each leading byte
selects. -/
theorem encodesTo_pendingCounts (recs : List (Byte × List Byte)) (hp : s.encPos = 0) (hn : s.encCount ≤ rleMaxRun)
    (hrecs : ∀ r ∈ recs, r.2.length + 1 = s.cfg.recordBytes) :
    EncodesTo s recs (pendingCounts s.encValue s.encCount (recs.map Prod.fst)) := by
  induction recs generalizing s with
  | nil =>
    rw [List.map_nil, pendingCounts_nil hn]
    exact encodesTo_nil s
  | cons r recs ih =>
    obtain ⟨hr, hrecs⟩ := List.forall_mem_cons.1 hrecs
    rw [List.map_cons]
    by_cases hd : r.1 = s.encValue
    · by_cases hlt : s.encCount < rleMaxRun
      · have hle : s.encCount + 1#8 ≤ rleMaxRun := by bv_omega
        rw [hd, pendingCounts_match hlt]
        exact .cons hp hr (step_encMatch hp hd hlt) fun es =>
          ih (s := (s.setEnc s.encValue (s.encCount + 1#8) 0).emit es) rfl hle hrecs
      · have hcap : s.encCount = rleMaxRun := BitVec.le_antisymm hn (BitVec.not_lt.1 hlt)
        rw [hd, hcap, pendingCounts_cap]
        exact .cons hp hr (step_encCap hp hd hcap) fun es =>
          ih (s := (s.setEnc s.encValue 1#8 0).emit es) rfl one_le_rleMaxRun hrecs
    · rw [pendingCounts_mismatch hn hd]
      exact .cons hp hr (step_encMismatch hp hd) fun es =>
        ih (s := (s.setEnc r.1 1#8 0).emit es) rfl one_le_rleMaxRun hrecs

/-- From the start of a stream the encoder gives R178's count stream and is left as it was. -/
theorem encodesTo_streamCounts (recs : List (Byte × List Byte)) (hvalue : s.encValue = s.cfg.rleV0)
    (hcount : s.encCount = 0#8) (hp : s.encPos = 0) (hrecs : ∀ r ∈ recs, r.2.length + 1 = s.cfg.recordBytes) :
    EncodesTo s recs (streamCounts s.cfg (recs.map Prod.fst)) := by
  have h := encodesTo_pendingCounts recs hp (by rw [hcount]; decide) hrecs
  rwa [hvalue, hcount, ← streamCounts_eq_pendingCounts] at h

theorem setEnc_of_streamStart (hvalue : s.encValue = s.cfg.rleV0) (hcount : s.encCount = 0#8) (hp : s.encPos = 0) :
    s.setEnc s.cfg.rleV0 0#8 0 = s := by
  rw [← hvalue, ← hcount, ← hp]
  rfl

/-- R178: the counts before the sentinel are at most 254. -/
theorem streamCounts_eq_append_sentinel (c : Config) (ls : List Byte) :
    ∃ cs, streamCounts c ls = cs ++ [rleCap] ∧ ∀ n ∈ cs, n.toNat ≤ 254 := by
  refine ⟨_, rfl, fun n hn => ?_⟩
  rcases List.mem_append.1 hn with hfirst | hrun
  · split at hfirst
    · cases hfirst
    · rw [List.mem_singleton.1 hfirst]
      decide
  · obtain ⟨run, _, hrun⟩ := List.mem_flatMap.1 hrun
    exact le_of_mem_runCounts hrun

/-- Settles O56: the run of the encoder by induction over the records (`encodesTo_streamCounts`), and the bound on the counts of the count
stream itself. -/
theorem encoderOutputIsTheCountStream : Obligations.EncoderOutputIsTheCountStream := by
  intro s recs _ hvalue hcount hp hrecs
  obtain ⟨t, os, hrun, hcounts, ht⟩ := encodesTo_streamCounts recs hvalue hcount hp hrecs
  obtain ⟨cs, hcs, hmax⟩ := streamCounts_eq_append_sentinel s.cfg (recs.map Prod.fst)
  rw [setEnc_of_streamStart hvalue hcount hp] at ht
  exact ⟨t, os, cs, hrun, hcounts, hcounts.trans hcs, hmax, ht⟩

/-! ### The decoder's run over a stream -/

/-- The counts `cs`, presented in `s`, give runs whose byte view is `bs`, then one `End`, and leave the decoder ready for the next stream,
everything else but the outputs as in `s`. -/
def DecodesTo (s : State) (cs bs : List Byte) : Prop :=
  ∃ u ps es, runWords (decCounts cs) s = some (u, ps) ∧ ps.flatten = es ++ [.streamEnd] ∧ OutEvent.streamEnd ∉ es ∧
    byteView ps.flatten = bs ∧ u = (s.setDec false).emit u.out

theorem step_decCount (s : State) (d : Byte) : step (s.present (ScriptLine.decCount d).word) = exec (selectDec d) s :=
  step_present_ok (decodeOp_decCount s d)

theorem decodesTo_sentinel (s : State) : DecodesTo s [rleCap] [] := by
  have hstep : step (s.present (ScriptLine.decCount rleCap).word) = .next ((s.setDec false).emit [.streamEnd]) := by
    rw [step_decCount, selectDec_sentinel, exec_decEnd]
  exact ⟨_, _, [], runWords_cons hstep, rfl, List.not_mem_nil, rfl, rfl⟩

/-- A count is decoded to a run of the value the parity selects; the rest is decoded with the other parity. -/
theorem DecodesTo.cons {cs bs : List Byte} (hn : n ≤ rleMaxRun)
    (hrest : ∀ es, DecodesTo ((s.setDec (!s.decParity)).emit es) cs bs) :
    DecodesTo s (n :: cs) (List.replicate n.toNat (runValue s.cfg s.decParity) ++ bs) := by
  have hne : n ≠ rleCap := by bv_omega
  have hstep : step (s.present (ScriptLine.decCount n).word) =
      .next ((s.setDec (!s.decParity)).emit [.run (runValue s.cfg s.decParity) n.toNat]) := by
    rw [step_decCount, selectDec_run hne, exec_decRun hne]
  obtain ⟨u, ps, es, hrun, hflat, hend, hview, hu⟩ := hrest [.run (runValue s.cfg s.decParity) n.toNat]
  refine ⟨u, [.run (runValue s.cfg s.decParity) n.toNat] :: ps, .run (runValue s.cfg s.decParity) n.toNat :: es, ?_, ?_, ?_, ?_, hu⟩
  · rw [decCounts, List.map_cons, scriptWords_cons, runWords_cons hstep, ← decCounts, hrun]
    rfl
  · rw [List.flatten_cons, hflat]
    rfl
  · simp [hend]
  · rw [← hview]
    rfl

/-- Of the two values, the one the parity does not select is the one the other parity selects. -/
theorem runValue_not {c : Config} {parity : Bool} (hv : v = c.rleV0 ∨ v = c.rleV1) (hne : v ≠ runValue c parity) :
    runValue c (!parity) = v := by
  cases parity <;> simp_all [runValue]

/-- Counts still to come are decoded to the run in progress and the leading bytes after it, where the parity selects the run's value; by
induction on the leading bytes and the case each is for the encoder. -/
theorem decodesTo_pendingCounts (ls : List Byte) (hn : n ≤ rleMaxRun) (hv : v = runValue s.cfg s.decParity)
    (hls : ∀ l ∈ ls, l = s.cfg.rleV0 ∨ l = s.cfg.rleV1) :
    DecodesTo s (pendingCounts v n ls) (List.replicate n.toNat v ++ ls) := by
  induction ls generalizing s v n with
  | nil =>
    rw [pendingCounts_nil hn, hv]
    exact .cons hn fun es => decodesTo_sentinel _
  | cons l ls ih =>
    obtain ⟨hl, hls⟩ := List.forall_mem_cons.1 hls
    by_cases hlv : l = v
    · subst hlv
      by_cases hlt : n < rleMaxRun
      · have hle : n + 1#8 ≤ rleMaxRun := by bv_omega
        have hsucc : (n + 1#8).toNat = n.toNat + 1 := by bv_omega
        rw [pendingCounts_match hlt, replicate_append_cons_self, ← hsucc]
        exact ih hle hv hls
      · obtain rfl : n = rleMaxRun := BitVec.le_antisymm hn (BitVec.not_lt.1 hlt)
        rw [pendingCounts_cap, hv]
        have hback : s.decParity = !!s.decParity := (Bool.not_not _).symm
        exact .cons hn fun es => .cons (n := 0#8) (by decide) fun es' =>
          ih one_le_rleMaxRun (congrArg (runValue s.cfg) hback) hls
    · rw [pendingCounts_mismatch hn hlv, hv]
      exact .cons hn fun es => ih one_le_rleMaxRun (runValue_not hl (hv ▸ hlv)).symm hls

/-- R178's count stream of two-valued leading bytes is decoded to them from the decoder's reset state. -/
theorem decodesTo_streamCounts (ls : List Byte) (hparity : s.decParity = false)
    (hls : ∀ l ∈ ls, l = s.cfg.rleV0 ∨ l = s.cfg.rleV1) : DecodesTo s (streamCounts s.cfg ls) ls := by
  rw [streamCounts_eq_pendingCounts]
  exact decodesTo_pendingCounts ls (by decide) (by rw [hparity]; rfl) hls

/-- Settles O57: the encoder gives the count stream (`encodesTo_streamCounts`), which the decoder takes back (`decodesTo_streamCounts`). -/
theorem runLengthRoundTrip : Obligations.RunLengthRoundTrip := by
  intro s recs _ hvalue hcount hp hparity hrecs
  obtain ⟨t, os, hrun, hcounts, ht⟩ := encodesTo_streamCounts recs hvalue hcount hp fun r hr => (hrecs r hr).1
  rw [setEnc_of_streamStart hvalue hcount hp] at ht
  have hcfg : t.cfg = s.cfg := by rw [ht, emit_cfg]
  have htparity : t.decParity = false := by rw [ht, emit_decParity, hparity]
  have hleads : ∀ l ∈ recs.map Prod.fst, l = t.cfg.rleV0 ∨ l = t.cfg.rleV1 := fun l hl => by
    obtain ⟨r, hr, rfl⟩ := List.mem_map.1 hl
    rw [hcfg]
    exact (hrecs r hr).2
  obtain ⟨u, ps, es, hrun', hflat, hend, hview, hu⟩ := decodesTo_streamCounts _ htparity hleads
  rw [hcfg, ← hcounts] at hrun'
  refine ⟨t, os, u, ps, es, hrun, hrun', hflat, hend, hview, ?_⟩
  rw [hu, ht, ← hparity]
  rfl

end Sys2Proof.Machine
end

section
/-! The host's contract (60_exceptions.md R232 to R238): resend on NAK, and the fatal end once the attempts are used up (R235). -/

namespace Sys2Proof.Machine
variable {σ : Type} {answer : List Byte → σ → σ × List Byte} {frame rest : List Byte} {n : Nat} {l : LinkSide σ}

@[simp] theorem sendAndAwait_zero : sendAndAwait answer frame 0 l = (.fatalExhausted, l) := rfl

/-- A send whose reply is NAK goes on as the same send with one attempt less; with no attempt left it is exhausted (`sendAndAwait_zero`). -/
theorem sendAndAwait_succ_of_nak (h : l.queue ++ (answer frame l.peer).2 = nak :: rest) :
    sendAndAwait answer frame (n + 1) l = sendAndAwait answer frame n ⟨(answer frame l.peer).1, rest, l.frames + 1⟩ := by
  have hne : nak ≠ ack := by decide
  simp only [sendAndAwait, h, if_neg hne, if_true]

/-- Against a peer that always NAKs, by induction on the budget: each NAK is read before the next send, so the queue is empty again. -/
theorem sendAndAwait_of_alwaysNak (hnak : ∀ x, (answer frame x).2 = [nak]) (hq : l.queue = []) :
    (sendAndAwait answer frame n l).1 = .fatalExhausted ∧ (sendAndAwait answer frame n l).2.frames = l.frames + n := by
  induction n generalizing l with
  | zero => exact ⟨rfl, rfl⟩
  | succ n ih =>
    have hreply : l.queue ++ (answer frame l.peer).2 = nak :: [] := by rw [hq, hnak, List.nil_append]
    rw [sendAndAwait_succ_of_nak hreply]
    obtain ⟨hend, hframes⟩ := ih (l := ⟨(answer frame l.peer).1, [], l.frames + 1⟩) rfl
    exact ⟨hend, hframes.trans (Nat.add_right_comm l.frames 1 n)⟩

/-- R238: the whole run ends with the frame whose attempts are exhausted; the frames after it are not sent. -/
theorem sendAll_of_fatalExhausted {later : List (List Byte)} (h : (sendAndAwait answer frame n l).1 = .fatalExhausted) :
    sendAll answer n (frame :: later) l = sendAndAwait answer frame n l := by
  obtain ⟨l', hsend⟩ : ∃ l', sendAndAwait answer frame n l = (.fatalExhausted, l') := ⟨_, Prod.ext h rfl⟩
  simp only [sendAll, hsend]

/-- Settles O59: `sendAndAwait_succ_of_nak` for one NAK; for the peer that always NAKs, `sendAndAwait_of_alwaysNak`, after which
`sendAll_of_fatalExhausted` sends nothing more. -/
theorem alwaysNakedFrameIsSentExactlyATimes : Obligations.AlwaysNakedFrameIsSentExactlyATimes := by
  constructor
  · intro σ answer frame rest n l hreply
    refine ⟨fun _ => sendAndAwait_succ_of_nak hreply, ?_⟩
    rintro rfl
    rw [sendAndAwait_succ_of_nak hreply, sendAndAwait_zero]
  · intro σ answer frame later A l _ hnak hq
    obtain ⟨hend, hframes⟩ := sendAndAwait_of_alwaysNak (n := A) hnak hq
    rw [sendAll_of_fatalExhausted hend]
    exact ⟨hend, hframes⟩

end Sys2Proof.Machine
end

section
/-! Reset (70_reset_and_hazards.md R250 to R252), and the two replies to a frame rejected by its checksum (R261). -/

namespace Sys2Proof.Machine

/-! ### Bad checksum (R261) -/

/-- Bytes that are all answered `Pending` draw no reply. -/
theorem repliesOf_replicate_pending (n : Nat) : repliesOf (List.replicate n [OutEvent.result .pending]).flatten = [] := by
  induction n with
  | zero => rfl
  | succ n ih => exact ih

/-- Settles O54: the run is `runWords_badChecksum`; of its outputs only the last two hold a reply. -/
theorem badChecksumDrawsTwoNaks : Obligations.BadChecksumDrawsTwoNaks := by
  intro s L c ps hs hst hlen hpos hfits hc
  have ⟨_, hrx, _⟩ := hs
  refine ⟨_, runWords_badChecksum hrx hst hlen hpos hfits hc, ?_⟩
  rw [List.flatten_append, repliesOf_append, repliesOf_replicate_pending]
  rfl

/-! ### Reset (R250 to R252) -/

theorem exec_reset (s : State) (d : Byte) :
    exec (.reset d) s = .next ((State.resetWith s.cfg).setPending s.pending) := rfl

/-- Settles O1: the registers of `exec_reset`'s next state are those of `State.resetWith`. -/
theorem resetPutsEveryRegisterAtItsResetValue : Obligations.ResetPutsEveryRegisterAtItsResetValue := by
  intro s d
  refine ⟨decodeOp_reset s d, _, exec_reset s d, ?_⟩
  simp

/-- Settles O2: the table of R252 entry by entry, and `exec_reset` for a state of the instance. -/
theorem powerOnStateIsTheResetState : Obligations.PowerOnStateIsTheResetState := by
  intro c
  constructor
  · exact ⟨rfl, rfl, Memory.read_nil, rfl, rfl, rfl, rfl, rfl, rfl, rfl⟩
  · rintro s d rfl
    exact exec_reset s d

end Sys2Proof.Machine
end

section
/-! Words written out from the opcode table (30_encoding.md section 1). -/

namespace Sys2Proof.Machine
variable {s : State} {w : OpWord} {i : Instr}

/-- `decode_encode_of_guard`, read from the word: an instruction whose guard holds and whose encoding is the word is what the word decodes
to. -/
theorem decodeOp_of_encode (hc : s.cfg.Valid) (hg : caseGuard i s) (he : encode i = .opw12 w) : decodeOp w s = .ok i := by
  have h := decode_encode_of_guard hc hg
  rwa [he] at h

/-- Settles O35: each word is its row's encoding (`decodeOp_of_encode`), and the row's guard holds in the state: at reset the receiver is in
IDLE. -/
theorem sampleWordsDecode : Obligations.SampleWordsDecode := by
  intro c hc
  have hidle : (State.resetWith c).rxState = .idle := rfl
  have hreject : 0x55#8 ≠ stx := by decide
  have hrun : 0x02#8 ≠ rleCap := by decide
  exact ⟨decodeOp_of_encode hc trivial rfl, -- RESET
    decodeOp_of_encode hc ⟨hidle, rfl⟩ rfl, -- RX.IDLE.START
    decodeOp_of_encode hc ⟨hidle, hreject⟩ rfl, -- RX.IDLE.REJECT
    decodeOp_of_encode hc ⟨rfl, rfl⟩ rfl, -- RX.ETX.ACCEPT, in ETX_NEXT
    decodeOp_of_encode hc trivial rfl, -- CK.CLEAR
    decodeOp_of_encode hc trivial rfl, -- CK.FOLD
    decodeOp_of_encode hc trivial rfl, -- ENC.END
    decodeOp_of_encode hc hrun rfl, -- DEC.RUN
    decodeOp_of_encode hc rfl rfl, -- DEC.END
    decodeOp_of_encode hc trivial rfl, -- RESERVED.7
    decodeOp_of_encode hc trivial rfl⟩ -- RESERVED.8-F

end Sys2Proof.Machine
end
